-- ==== Sys2Proof/Word.lean ====
section
/-! DEFINITION. The word type of the unit and the sizes every other file uses (00_scope.md R7, R10). -/

namespace Sys2Proof

/-- "Word: 16-bit unsigned integer; the uniform unit of memory cell, register, and instruction encoding" (R7, R10).
`+` on it is modulo 2^16. -/
abbrev Word := BitVec 16

/-- A character or output byte (00_scope.md R6, R8). -/
abbrev Byte := BitVec 8

/-- The number of a general register, R0..R7 (R20, R72). -/
abbrev Reg := Fin 8

end Sys2Proof
end

