-- ==== Sys2Proof/Config.lean ====
section
/-! DEFINITION. The named parameters the spec leaves open (00_scope.md R8), as constants without a body: nothing in Lean
can evaluate one, so whatever is proved holds for every value of it. -/

namespace Sys2Proof.Config

/-- `TRAP_WRITES_R7`: whether a completed TRAP writes the post-increment PC to R7 (R8, R182, D5). -/
opaque trapWritesR7 : Bool

/-- `HALT_NOTICE`: the bytes HALT emits (R8, R188, D16). -/
opaque haltNotice : List Byte

/-- `IN_PROMPT`: the bytes IN emits before it reads (R8, R186, D16). -/
opaque inPrompt : List Byte

/-- `KbdPoll`, the input oracle: the answer to the `k`-th free draw, `none` (a timeout) or `some c`, the next character
(R8, R47, U5). The characters it answers are the input stream, so no answer can exceed the stream. Log 3. -/
opaque kbdPoll : Nat → Option Byte

/-- `KBDR_STALE`: the word a keyboard-data read returns with no character latched, at the `k`-th free draw (R8, R48, U6).
Log 4. -/
opaque kbdrStale : Nat → Word

/-- What the two exit codes below are made from; see `exitFault` and `exitInterrupt`. -/
opaque exitSeed : Nat × Nat

/-- `EXIT_FAULT`: any non-zero number (R8, R229, D23). -/
def exitFault : Nat := exitSeed.1 + 1

/-- `EXIT_INTERRUPT`: any non-zero number other than `exitFault` (R8, R229, D23). Every pair of distinct non-zero numbers
is `(exitFault, exitInterrupt)` for exactly one value of `exitSeed`. -/
def exitInterrupt : Nat := if exitSeed.2 < exitSeed.1 then exitSeed.2 + 1 else exitSeed.2 + 2

end Sys2Proof.Config
end

