-- ==== Sys2Proof/Syntax.lean ====
section
/-! DEFINITION. The instructions: one constructor for each row of spec/opcode_table.json. Immediates and offsets are the raw
fields of the word; they are widened where they are used (Machine/Operands.lean). -/

namespace Sys2Proof

/-- The rows of the opcode table, fields as in 30_encoding.md R71. -/
inductive Instr where
  /-- ADD, register form (R100). -/
  | addReg (dr sr1 sr2 : Reg)
  /-- ADD, immediate form (R101). -/
  | addImm (dr sr1 : Reg) (imm5 : BitVec 5)
  /-- AND, register form (R102). -/
  | andReg (dr sr1 sr2 : Reg)
  /-- AND, immediate form (R103). -/
  | andImm (dr sr1 : Reg) (imm5 : BitVec 5)
  /-- NOT (R104). -/
  | not (dr sr : Reg)
  /-- LD (R120). -/
  | ld (dr : Reg) (off9 : BitVec 9)
  /-- LDI (R121). -/
  | ldi (dr : Reg) (off9 : BitVec 9)
  /-- LDR (R122). -/
  | ldr (dr base : Reg) (off6 : BitVec 6)
  /-- LEA (R123). -/
  | lea (dr : Reg) (off9 : BitVec 9)
  /-- ST (R124). -/
  | st (sr : Reg) (off9 : BitVec 9)
  /-- STI (R125). -/
  | sti (sr : Reg) (off9 : BitVec 9)
  /-- STR (R126). -/
  | str (sr base : Reg) (off6 : BitVec 6)
  /-- BR with its condition mask (R78, R150). -/
  | br (n z p : Bool) (off9 : BitVec 9)
  /-- JMP; `RET` is `JMP R7` (R151). -/
  | jmp (base : Reg)
  /-- JSR (R152). -/
  | jsr (off11 : BitVec 11)
  /-- JSRR (R153). -/
  | jsrr (base : Reg)
  /-- RTI; the ignored low 12 bits are kept for the fault record's raw word (R82, R160). -/
  | rti (low : BitVec 12)
  /-- The reserved opcode 1101; low bits kept as for RTI (R81, R161). -/
  | reserved (low : BitVec 12)
  /-- TRAP with its 8-bit code (R181). The six service codes have constructors of their own, below; this one is well
  formed for the other 250 codes (R189). -/
  | trap (vect : BitVec 8)
  /-- TRAP x20, GETC (R183). -/
  | trapGetc
  /-- TRAP x21, OUT (R184). -/
  | trapOut
  /-- TRAP x22, PUTS (R185). -/
  | trapPuts
  /-- TRAP x23, IN (R186). -/
  | trapIn
  /-- TRAP x24, PUTSP (R187). -/
  | trapPutsp
  /-- TRAP x25, HALT (R188). -/
  | trapHalt
  deriving DecidableEq, Repr

end Sys2Proof
end

