-- ==== Sys2Proof/WellFormed.lean ====
section
/-! DEFINITION. When an instruction is the reading of some word. Field widths are in the types; the one check left is that a
service's trap code has its own constructor. -/

namespace Sys2Proof

/-- The six defined trap codes, GETC x20, OUT x21, PUTS x22, IN x23, PUTSP x24, HALT x25 (R181, D8). -/
def isServiceCode (v : BitVec 8) : Bool := decide (0x20 ≤ v.toNat ∧ v.toNat ≤ 0x25)

/-- `trap v` stands only for the codes outside the six services (R189): a service code is written with its own
constructor, so that every word has one reading. Every other constructor is well formed at every operand (R72, R80). -/
def Instr.wellFormed : Instr → Bool
  | .trap v => !isServiceCode v
  | .addReg _ _ _ | .addImm _ _ _ | .andReg _ _ _ | .andImm _ _ _ | .not _ _ => true
  | .ld _ _ | .ldi _ _ | .ldr _ _ _ | .lea _ _ | .st _ _ | .sti _ _ | .str _ _ _ => true
  | .br _ _ _ _ | .jmp _ | .jsr _ | .jsrr _ | .rti _ | .reserved _ => true
  | .trapGetc | .trapOut | .trapPuts | .trapIn | .trapPutsp | .trapHalt => true

end Sys2Proof
end

