-- ==== Sys2Proof/Decode.lean ====
section
/-! DEFINITION. The decoder, total over Word (30_encoding.md R79, R85), and after it the encoder, both written from the
field layout of R71. -/

namespace Sys2Proof

/-- The operations that have undefined operand patterns (R80). -/
inductive IllegalOp where
  | add | and | not | jsrr | jmp | trap
  deriving DecidableEq, Repr

/-- The decoder's answer: an instruction, or `ILLEGAL(op)`, the name under which an undefined operand pattern is rejected
(R79, R80). -/
inductive Tag where
  | instr (i : Instr)
  | illegal (op : IllegalOp)
  deriving DecidableEq, Repr

/-- The sixteen opcodes of R70. -/
inductive Opcode where
  | br | add | ld | st | jsr | and | ldr | str | rti | not | ldi | sti | jmp | reserved | lea | trap
  deriving DecidableEq, Repr

/-- ir[15:12] read as in R70's table, bit 15 first. -/
def Opcode.ofBits (b15 b14 b13 b12 : Bool) : Opcode :=
  match b15, b14, b13, b12 with
  | false, false, false, false => .br
  | false, false, false, true  => .add
  | false, false, true,  false => .ld
  | false, false, true,  true  => .st
  | false, true,  false, false => .jsr
  | false, true,  false, true  => .and
  | false, true,  true,  false => .ldr
  | false, true,  true,  true  => .str
  | true,  false, false, false => .rti
  | true,  false, false, true  => .not
  | true,  false, true,  false => .ldi
  | true,  false, true,  true  => .sti
  | true,  true,  false, false => .jmp
  | true,  true,  false, true  => .reserved
  | true,  true,  true,  false => .lea
  | true,  true,  true,  true  => .trap

/-- The opcode of a word, `ir[15:12]` (R70). -/
def opcodeOf (w : Word) : Opcode :=
  Opcode.ofBits (w.getLsbD 15) (w.getLsbD 14) (w.getLsbD 13) (w.getLsbD 12)

/-- The 3-bit register field whose lowest bit is bit `lo` (R72). -/
def regField (w : Word) (lo : Nat) : Reg := (w.extractLsb' lo 3).toFin

/-- The trap code to its constructor: the six services (R181, D8), or `trap` for every other code (R83, R189). -/
def decodeTrap (v : BitVec 8) : Instr :=
  if v = 0x20#8 then .trapGetc
  else if v = 0x21#8 then .trapOut
  else if v = 0x22#8 then .trapPuts
  else if v = 0x23#8 then .trapIn
  else if v = 0x24#8 then .trapPutsp
  else if v = 0x25#8 then .trapHalt
  else .trap v

/-- The decode function of R85. Every one of the sixteen opcodes is named; a fixed field that does not hold its required
value gives `illegal` (R80). -/
def decode (w : Word) : Tag :=
  match opcodeOf w with
  | .br => .instr (.br (w.getLsbD 11) (w.getLsbD 10) (w.getLsbD 9) (w.extractLsb' 0 9))
  | .add =>
    if w.getLsbD 5 then .instr (.addImm (regField w 9) (regField w 6) (w.extractLsb' 0 5))
    else if w.extractLsb' 3 2 = 0#2 then .instr (.addReg (regField w 9) (regField w 6) (regField w 0))
    else .illegal .add
  | .ld => .instr (.ld (regField w 9) (w.extractLsb' 0 9))
  | .st => .instr (.st (regField w 9) (w.extractLsb' 0 9))
  | .jsr =>
    if w.getLsbD 11 then .instr (.jsr (w.extractLsb' 0 11))
    else if w.extractLsb' 9 2 = 0#2 ∧ w.extractLsb' 0 6 = 0#6 then .instr (.jsrr (regField w 6))
    else .illegal .jsrr
  | .and =>
    if w.getLsbD 5 then .instr (.andImm (regField w 9) (regField w 6) (w.extractLsb' 0 5))
    else if w.extractLsb' 3 2 = 0#2 then .instr (.andReg (regField w 9) (regField w 6) (regField w 0))
    else .illegal .and
  | .ldr => .instr (.ldr (regField w 9) (regField w 6) (w.extractLsb' 0 6))
  | .str => .instr (.str (regField w 9) (regField w 6) (w.extractLsb' 0 6))
  | .rti => .instr (.rti (w.extractLsb' 0 12))
  | .not =>
    if w.extractLsb' 0 6 = 0b111111#6 then .instr (.not (regField w 9) (regField w 6))
    else .illegal .not
  | .ldi => .instr (.ldi (regField w 9) (w.extractLsb' 0 9))
  | .sti => .instr (.sti (regField w 9) (w.extractLsb' 0 9))
  | .jmp =>
    if w.extractLsb' 9 3 = 0#3 ∧ w.extractLsb' 0 6 = 0#6 then .instr (.jmp (regField w 6))
    else .illegal .jmp
  | .reserved => .instr (.reserved (w.extractLsb' 0 12))
  | .lea => .instr (.lea (regField w 9) (w.extractLsb' 0 9))
  | .trap =>
    if w.extractLsb' 8 4 = 0#4 then .instr (decodeTrap (w.extractLsb' 0 8))
    else .illegal .trap

/-- A register number as its 3-bit field. -/
def regBits (r : Reg) : BitVec 3 := BitVec.ofFin r

/-- One bit of the BR mask as a field. -/
def flagBit (b : Bool) : BitVec 1 := BitVec.ofBool b

/-- The word of an instruction: the formats of R71, bit 15 on the left. -/
def encode : Instr → Word
  | .addReg dr sr1 sr2 => 0b0001#4 ++ regBits dr ++ regBits sr1 ++ 0b000#3 ++ regBits sr2
  | .addImm dr sr1 imm5 => 0b0001#4 ++ regBits dr ++ regBits sr1 ++ 0b1#1 ++ imm5
  | .andReg dr sr1 sr2 => 0b0101#4 ++ regBits dr ++ regBits sr1 ++ 0b000#3 ++ regBits sr2
  | .andImm dr sr1 imm5 => 0b0101#4 ++ regBits dr ++ regBits sr1 ++ 0b1#1 ++ imm5
  | .not dr sr => 0b1001#4 ++ regBits dr ++ regBits sr ++ 0b111111#6
  | .ld dr off9 => 0b0010#4 ++ regBits dr ++ off9
  | .ldi dr off9 => 0b1010#4 ++ regBits dr ++ off9
  | .ldr dr base off6 => 0b0110#4 ++ regBits dr ++ regBits base ++ off6
  | .lea dr off9 => 0b1110#4 ++ regBits dr ++ off9
  | .st sr off9 => 0b0011#4 ++ regBits sr ++ off9
  | .sti sr off9 => 0b1011#4 ++ regBits sr ++ off9
  | .str sr base off6 => 0b0111#4 ++ regBits sr ++ regBits base ++ off6
  | .br n z p off9 => 0b0000#4 ++ flagBit n ++ flagBit z ++ flagBit p ++ off9
  | .jmp base => 0b1100#4 ++ 0b000#3 ++ regBits base ++ 0b000000#6
  | .jsr off11 => 0b0100#4 ++ 0b1#1 ++ off11
  | .jsrr base => 0b0100#4 ++ 0b000#3 ++ regBits base ++ 0b000000#6
  | .rti low => 0b1000#4 ++ low
  | .reserved low => 0b1101#4 ++ low
  | .trap vect => 0b11110000#8 ++ vect
  | .trapGetc => 0xF020#16
  | .trapOut => 0xF021#16
  | .trapPuts => 0xF022#16
  | .trapIn => 0xF023#16
  | .trapPutsp => 0xF024#16
  | .trapHalt => 0xF025#16

/-- The `mask` of the instruction's row in spec/opcode_table.json: the bits its format fixes. -/
def rowMask : Instr → Word
  | .addReg _ _ _ | .andReg _ _ _ => 0xF038#16
  | .addImm _ _ _ | .andImm _ _ _ => 0xF020#16
  | .not _ _ => 0xF03F#16
  | .ld _ _ | .ldi _ _ | .ldr _ _ _ | .lea _ _ | .st _ _ | .sti _ _ | .str _ _ _ | .br _ _ _ _ => 0xF000#16
  | .rti _ | .reserved _ => 0xF000#16
  | .jmp _ | .jsrr _ => 0xFE3F#16
  | .jsr _ => 0xF800#16
  | .trap _ => 0xFF00#16
  | .trapGetc | .trapOut | .trapPuts | .trapIn | .trapPutsp | .trapHalt => 0xFFFF#16

/-- The `match` of the instruction's row in spec/opcode_table.json: what the fixed bits hold. -/
def rowMatch : Instr → Word
  | .addReg _ _ _ => 0x1000#16
  | .addImm _ _ _ => 0x1020#16
  | .andReg _ _ _ => 0x5000#16
  | .andImm _ _ _ => 0x5020#16
  | .not _ _ => 0x903F#16
  | .ld _ _ => 0x2000#16
  | .ldi _ _ => 0xA000#16
  | .ldr _ _ _ => 0x6000#16
  | .lea _ _ => 0xE000#16
  | .st _ _ => 0x3000#16
  | .sti _ _ => 0xB000#16
  | .str _ _ _ => 0x7000#16
  | .br _ _ _ _ => 0x0000#16
  | .jmp _ => 0xC000#16
  | .jsr _ => 0x4800#16
  | .jsrr _ => 0x4000#16
  | .rti _ => 0x8000#16
  | .reserved _ => 0xD000#16
  | .trap _ => 0xF000#16
  | .trapGetc => 0xF020#16
  | .trapOut => 0xF021#16
  | .trapPuts => 0xF022#16
  | .trapIn => 0xF023#16
  | .trapPutsp => 0xF024#16
  | .trapHalt => 0xF025#16

/-- The word the host's numbering names: its low `nbits` bits, zeros above (one word an instruction, R70). -/
def tableWord (nbits w : Nat) : Word := BitVec.ofNat 16 (w % 2 ^ nbits)

/-- What the decoder reads from a word numbered as spec/opcode_table.json numbers it; none for an undefined pattern. -/
def decodeTableWord (nbits w : Nat) : Option Instr :=
  match decode (tableWord nbits w) with
  | .instr i => some i
  | .illegal _ => none

end Sys2Proof
end

