-- ==== Sys2Proof/Machine/State.lean ====
section
/-! DEFINITION. Everything the spec gives the machine, as plain data (10_state.md R34), the reasons a step can stop, and the
state right after reset (R35). -/

namespace Sys2Proof.Machine

/-- Why the unit halted (R27). -/
inductive HaltReason where
  /-- TRAP HALT (R188). -/
  | haltTrap
  /-- The host's stop request (R224). -/
  | interrupted
  deriving DecidableEq, Repr

/-- The four fault causes (R212). -/
inductive FaultCause where
  | reservedOpcode
  | rtiUnsupported
  | illegalOperand
  | undefinedTrap
  deriving DecidableEq, Repr

/-- The fault record (R28): `cause`, the address the faulting word was fetched from, the raw word. -/
structure FaultRecord where
  cause : FaultCause
  addr : Word
  word : Word
  deriving DecidableEq, Repr

/-- `run_state` (R26). `halt_reason` (R27) and the fault record (R28) are meaningful only in the state that holds them here,
so no value has to be chosen for them while they are not meaningful (R35, U15). Log 5. -/
inductive RunState where
  | running
  | halted (reason : HaltReason)
  | faulted (record : FaultRecord)
  deriving DecidableEq, Repr

/-- The condition flags (R23). -/
structure Flags where
  n : Bool
  z : Bool
  p : Bool
  deriving DecidableEq, Repr

/-- A TRAP service that is not finished at the end of a step: GETC or IN waiting for a character (R191), or PUTS or PUTSP
about to read the string word at `a` (R185, R187). Logs 7 and 8. -/
inductive Service where
  | getc
  | inp
  | puts (a : Word)
  | putsp (a : Word)
  deriving DecidableEq, Repr

/-- One listed memory word: its address and what it holds. The word is the smallest unit that has an address (R40), so a
cell is a whole word. Log 2. -/
abbrev Cell := Nat × Word

/-- The 65536-word memory (R40): the cells that do not hold x0000, addresses strictly rising. A cell that is not listed
reads x0000 (R35, R36). -/
abbrev Memory := List Cell

/-- The whole state (R34). The last four fields are the model's own: see INVENTORY.md and logs 3, 4, 6, 7 and 8. -/
structure State where
  /-- R0..R7 (R20). -/
  regs : Vector Word 8
  /-- The program counter (R22). -/
  pc : Word
  /-- N, Z, P (R23). -/
  flags : Flags
  /-- Memory (R40). -/
  mem : Memory
  /-- The keyboard-data latch (R29). -/
  kbdrLatch : Word
  /-- Whether the latch holds an unread character (R29). -/
  kbdrValid : Bool
  /-- The host's stop request (R30). -/
  stopPending : Bool
  /-- Run state with its halt reason or fault record (R26, R27, R28). -/
  runState : RunState
  /-- The output stream, first byte first (R180). -/
  out : List Byte
  /-- The model's own: the load is complete (R250, R254). Log 6. -/
  loaded : Bool
  /-- The model's own: the TRAP service in progress (R185, R187, R191). Logs 7 and 8. -/
  service : Option Service
  /-- The model's own: the answers the host has already fixed for the coming polls, first one first (R47). Log 3. -/
  input : List (Option Byte)
  /-- The model's own: how many free values have been drawn (R8). Logs 3 and 4. -/
  draws : Nat
  deriving DecidableEq, Repr

/-- Why a step has no next state. Every instruction has one: these two are the spec's own "no step". -/
inductive Fault where
  /-- The unit has been reset and no load has completed: "The unit takes no step between reset and the end of the load"
  (R250). Raised by `step` alone. Safe: nothing is claimed of a step the unit does not take. -/
  | imageNotLoaded
  /-- The run has ended: "Halted and Faulted have no step" (R211). Raised by `step` alone. Safe, as above. -/
  | runEnded
  deriving DecidableEq, Repr

/-- Why an instruction is given no meaning. -/
inductive Refusal where
  /-- Not modelled yet. No arm of `exec` raises it: every instruction of the table has its meaning. Safe. -/
  | notModelled (mnemonic : String)
  deriving DecidableEq, Repr

/-- The unit right after reset, before the load (R35, R250): everything zero, no flag set, no output. -/
def State.reset : State where
  regs := Vector.replicate 8 0#16
  pc := 0#16
  flags := ⟨false, false, false⟩
  mem := []
  kbdrLatch := 0#16
  kbdrValid := false
  stopPending := false
  runState := .running
  out := []
  loaded := false
  service := none
  input := []
  draws := 0

end Sys2Proof.Machine
end

