-- ==== Sys2Proof/Machine/Ops.lean ====
section
/-! DEFINITION. The named operations over memory, registers, the keyboard and the output stream, taking a fault, and honouring
the stop request. The spec has no return from a fault (60_exceptions.md R219), so none stands here. -/

namespace Sys2Proof.Machine

/-! ## Memory cells -/

/-- What the cell at an address holds; x0000 where nothing is listed (R36). -/
def Memory.get (m : Memory) (a : Nat) : Word :=
  match m with
  | [] => 0#16
  | (k, v) :: rest => if a = k then v else Memory.get rest a

/-- Store `v` at `a`, keeping the canonical form: addresses rising, no x0000 listed. -/
def Memory.set (m : Memory) (a : Nat) (v : Word) : Memory :=
  match m with
  | [] => if v = 0#16 then [] else [(a, v)]
  | (k, w) :: rest =>
    if a < k then (if v = 0#16 then (k, w) :: rest else (a, v) :: (k, w) :: rest)
    else if a = k then (if v = 0#16 then rest else (a, v) :: rest)
    else (k, w) :: Memory.set rest a v

/-- Store words at consecutive addresses from `a` (R253). -/
def Memory.setAll (m : Memory) (a : Nat) (ws : List Word) : Memory :=
  match ws with
  | [] => m
  | w :: rest => Memory.setAll (Memory.set m a w) (a + 1) rest

/-- The canonical form: every address in the 65536-word space, addresses strictly rising, no cell listed as x0000. -/
def Memory.wf (m : Memory) : Bool :=
  match m with
  | [] => true
  | (k, v) :: rest =>
    decide (k < 65536) && decide (v ≠ 0#16) && rest.all (fun c => decide (k < c.1)) && Memory.wf rest

/-! ## State access: one home for each piece of state -/

/-- `x[r]` (R11, R20). -/
def State.reg (s : State) (r : Reg) : Word := s.regs[r]

/-- `x[r] <- v` (R11, R20). No register is hardwired. -/
def State.setReg (r : Reg) (v : Word) (s : State) : State := { s with regs := s.regs.set r v }

/-- `pc <- v` (R11, R22). -/
def State.setPc (v : Word) (s : State) : State := { s with pc := v }

/-- Write N, Z and P (R23). -/
def State.setFlags (f : Flags) (s : State) : State := { s with flags := f }

/-- The stored cell, with no keyboard interception (R40). -/
def State.cell (s : State) (a : Word) : Word := Memory.get s.mem a.toNat

/-- Store a cell, with no keyboard interception (R40). -/
def State.setCell (a v : Word) (s : State) : State := { s with mem := Memory.set s.mem a.toNat v }

/-- Write the keyboard-data latch and its valid bit (R29). -/
def State.setLatch (v : Word) (valid : Bool) (s : State) : State := { s with kbdrLatch := v, kbdrValid := valid }

/-- Write `run_state` (R26). -/
def State.setRun (r : RunState) (s : State) : State := { s with runState := r }

/-- Append bytes to the output stream, in order (R180). -/
def State.emit (bs : List Byte) (s : State) : State := { s with out := s.out ++ bs }

/-- Record which service is in progress, if any. -/
def State.setService (v : Option Service) (s : State) : State := { s with service := v }

/-- The answers left after the first one has been used. -/
def State.setInput (v : List (Option Byte)) (s : State) : State := { s with input := v }

/-- Count one free value drawn. -/
def State.countDraw (s : State) : State := { s with draws := s.draws + 1 }

/-! ## The keyboard (20_memory.md R46 to R49) -/

/-- `KBSR_ADDR` (R46, D9). -/
def kbsrAddr : Word := 0xFE00#16

/-- `KBDR_ADDR` (R46, D9). -/
def kbdrAddr : Word := 0xFE02#16

/-- The two intercepted addresses (R46). -/
def isKeyboard (a : Word) : Bool := a == kbsrAddr || a == kbdrAddr

/-- A byte as a word, zero-extended (R47, R183). -/
def zext8 (c : Byte) : Word := c.setWidth 16

/-- `poll()` (R47): the next answer the host has fixed, or else a free one. Log 3. -/
def poll (s : State) : Option Byte × State :=
  match s.input with
  | r :: rest => (r, s.setInput rest)
  | [] => (Config.kbdPoll s.draws, s.countDraw)

/-- `KbsrRead` (R47): one poll; a character is latched and x8000 read, a timeout reads x0000. -/
def kbsrRead (s : State) : Word × State :=
  match poll s with
  | (some c, s1) => (0x8000#16, s1.setLatch (zext8 c) true)
  | (none, s1) => (0x0000#16, s1)

/-- `KbdrRead` (R48): the latched word once; with nothing latched, a free word. Log 4. -/
def kbdrRead (s : State) : Word × State :=
  if s.kbdrValid then (s.kbdrLatch, s.setLatch s.kbdrLatch false)
  else (Config.kbdrStale s.draws, s.countDraw)

/-- `MemRead(a, 1)` (R44). -/
def memRead (a : Word) (s : State) : Word × State :=
  if a = kbsrAddr then kbsrRead s
  else if a = kbdrAddr then kbdrRead s
  else (s.cell a, s)

/-- `MemWrite(a, 1, v)` (R45): a write to KBSR changes nothing, a write to KBDR loads the latch (R49). -/
def memWrite (a v : Word) (s : State) : State :=
  if a = kbsrAddr then s
  else if a = kbdrAddr then s.setLatch v true
  else s.setCell a v

/-! ## Fetch, fault entry, stop -/

/-- Fetch: read the word at pc through `MemRead`, then pc + 1 (R22, R50, R210). -/
def fetch (s : State) : Word × State :=
  let r := memRead s.pc s
  (r.1, r.2.setPc (r.2.pc + 1#16))

/-- Taking a fault (R213): record the cause, the address the word was fetched from and the raw word, and become Faulted.
While an instruction executes pc is its fetch address plus 1 (R22), so that address is pc - 1. Log 9. -/
def raiseFault (cause : FaultCause) (ir : Word) (s : State) : State :=
  s.setRun (.faulted ⟨cause, s.pc - 1#16, ir⟩)

/-- Honouring the stop request at a check point (R224): Halted(Interrupted), and a service in progress is given up
(R191). -/
def interrupt (s : State) : State := (s.setService none).setRun (.halted .interrupted)

end Sys2Proof.Machine
end

