-- ==== Sys2Proof/Machine/Operands.lean ====
section
/-! DEFINITION. The operand forms: sign extension of the fields (30_encoding.md R73 to R76) and the three addressing modes
(42_load_store.md R127). Every address sum wraps modulo 2^16 (R43). -/

namespace Sys2Proof.Machine

/-- `sext_N` (R10): widen an `N`-bit field to a word by replicating its top bit. -/
def sext (v : BitVec k) : Word := v.signExtend 16

/-- PC-relative: the post-increment pc plus the sign-extended offset, in words (R75, R76, R127). -/
def pcRelative (off : BitVec k) (s : State) : Word := s.pc + sext off

/-- Base plus offset: `x[BaseR]` plus the sign-extended offset6, in words (R74, R127). -/
def baseOffset (base : Reg) (off6 : BitVec 6) (s : State) : Word := s.reg base + sext off6

/-- Indirect: the pointer read of LDI and STI, through `MemRead` (R50, R127). -/
def indirect (off9 : BitVec 9) (s : State) : Word × State := memRead (pcRelative off9 s) s

end Sys2Proof.Machine
end

