-- ==== Sys2Proof/Machine/Control.lean ====
section
/-! DEFINITION. Control transfer, RTI, the reserved opcode (43_control.md R150 to R161) and the undefined operand patterns
(60_exceptions.md R215). The pc on entry is the post-increment pc. -/

namespace Sys2Proof.Machine

/-- Whether BR's mask names a flag that is set (R150). -/
def branchTaken (n z p : Bool) (f : Flags) : Bool := (n && f.n) || (z && f.z) || (p && f.p)

/-- BR (R150). -/
def execBr (n z p : Bool) (off9 : BitVec 9) (s : State) : Host.Outcome State Fault Refusal :=
  .next (if branchTaken n z p s.flags then s.setPc (pcRelative off9 s) else s)

/-- JMP (R151). -/
def execJmp (base : Reg) (s : State) : Host.Outcome State Fault Refusal :=
  .next (s.setPc (s.reg base))

/-- JSR (R152). -/
def execJsr (off11 : BitVec 11) (s : State) : Host.Outcome State Fault Refusal :=
  .next ((s.setReg 7 s.pc).setPc (pcRelative off11 s))

/-- JSRR; the base is read before the link is written (R153, D6). -/
def execJsrr (base : Reg) (s : State) : Host.Outcome State Fault Refusal :=
  .next ((s.setReg 7 s.pc).setPc (s.reg base))

/-- RTI: always the fault RTI_UNSUPPORTED (R160). -/
def execRti (low : BitVec 12) (s : State) : Host.Outcome State Fault Refusal :=
  .next (raiseFault .rtiUnsupported (encode (.rti low)) s)

/-- The reserved opcode: always the fault RESERVED_OPCODE (R161). -/
def execReserved (low : BitVec 12) (s : State) : Host.Outcome State Fault Refusal :=
  .next (raiseFault .reservedOpcode (encode (.reserved low)) s)

/-- Executing the tag ILLEGAL(op) of the word `ir`: the fault ILLEGAL_OPERAND, whatever the operation (R80, R215). -/
def execIllegal (op : IllegalOp) (ir : Word) (s : State) : Host.Outcome State Fault Refusal :=
  match op with
  | .add | .and | .not | .jsrr | .jmp | .trap => .next (raiseFault .illegalOperand ir s)

end Sys2Proof.Machine
end

