-- ==== Sys2Proof/Machine/Flags.lean ====
section
/-! DEFINITION. The flag computation (10_state.md R24), the only one the unit has. -/

namespace Sys2Proof.Machine

/-- The three bits `setcc(v)` writes (R24). -/
def Flags.ofWord (v : Word) : Flags where
  n := v.getLsbD 15
  z := v == 0#16
  p := !v.getLsbD 15 && v != 0#16

/-- `setcc(v)` (R24). -/
def setcc (v : Word) (s : State) : State := s.setFlags (Flags.ofWord v)

/-- `x[DR] <- v` and then `setcc(v)`: how ADD, AND, NOT, LD, LDI, LDR and LEA end (R23). -/
def writeResult (dr : Reg) (v : Word) (s : State) : State := setcc v (s.setReg dr v)

end Sys2Proof.Machine
end

