-- ==== Sys2Proof/Machine/LoadStore.lean ====
section
/-! DEFINITION. Loads, stores and LEA (42_load_store.md R120 to R126). No base register is written back (R128). -/

namespace Sys2Proof.Machine

/-- How every load ends: `v <- MemRead(ea)`, `x[DR] <- v`, `setcc(v)` (R120). -/
def loadFrom (dr : Reg) (ea : Word) (s : State) : State :=
  let r := memRead ea s
  writeResult dr r.1 r.2

/-- LD (R120). -/
def execLd (dr : Reg) (off9 : BitVec 9) (s : State) : Host.Outcome State Fault Refusal :=
  .next (loadFrom dr (pcRelative off9 s) s)

/-- LDI: the pointer read, then the data read (R121). -/
def execLdi (dr : Reg) (off9 : BitVec 9) (s : State) : Host.Outcome State Fault Refusal :=
  let p := indirect off9 s
  .next (loadFrom dr p.1 p.2)

/-- LDR; the base is read before DR is written (R122). -/
def execLdr (dr base : Reg) (off6 : BitVec 6) (s : State) : Host.Outcome State Fault Refusal :=
  .next (loadFrom dr (baseOffset base off6 s) s)

/-- LEA: the address itself, no memory access; the flags are written (R123). -/
def execLea (dr : Reg) (off9 : BitVec 9) (s : State) : Host.Outcome State Fault Refusal :=
  .next (writeResult dr (pcRelative off9 s) s)

/-- ST (R124). -/
def execSt (sr : Reg) (off9 : BitVec 9) (s : State) : Host.Outcome State Fault Refusal :=
  .next (memWrite (pcRelative off9 s) (s.reg sr) s)

/-- STI: the pointer read, then the write (R125). -/
def execSti (sr : Reg) (off9 : BitVec 9) (s : State) : Host.Outcome State Fault Refusal :=
  let p := indirect off9 s
  .next (memWrite p.1 (p.2.reg sr) p.2)

/-- STR (R126). -/
def execStr (sr base : Reg) (off6 : BitVec 6) (s : State) : Host.Outcome State Fault Refusal :=
  .next (memWrite (baseOffset base off6 s) (s.reg sr) s)

end Sys2Proof.Machine
end

