-- ==== Sys2Proof/Machine/Operate.lean ====
section
/-! DEFINITION. The operate instructions (41_operate.md R100 to R104). Sources are read before the destination is written. -/

namespace Sys2Proof.Machine

/-- ADD, register form (R100). -/
def execAddReg (dr sr1 sr2 : Reg) (s : State) : Host.Outcome State Fault Refusal :=
  .next (writeResult dr (s.reg sr1 + s.reg sr2) s)

/-- ADD, immediate form (R101). -/
def execAddImm (dr sr1 : Reg) (imm5 : BitVec 5) (s : State) : Host.Outcome State Fault Refusal :=
  .next (writeResult dr (s.reg sr1 + sext imm5) s)

/-- AND, register form (R102). -/
def execAndReg (dr sr1 sr2 : Reg) (s : State) : Host.Outcome State Fault Refusal :=
  .next (writeResult dr (s.reg sr1 &&& s.reg sr2) s)

/-- AND, immediate form; the immediate is sign-extended (R103, C7). -/
def execAndImm (dr sr1 : Reg) (imm5 : BitVec 5) (s : State) : Host.Outcome State Fault Refusal :=
  .next (writeResult dr (s.reg sr1 &&& sext imm5) s)

/-- NOT (R104). -/
def execNot (dr sr : Reg) (s : State) : Host.Outcome State Fault Refusal :=
  .next (writeResult dr (~~~ (s.reg sr)) s)

end Sys2Proof.Machine
end

