-- ==== Sys2Proof/Machine/Trap.lean ====
section
/-! DEFINITION. TRAP and the six built-in services (44_trap.md R180 to R192). No vector table is read (R181, D7), no flag is
written (R192), pc stays the post-increment pc (R190). -/

namespace Sys2Proof.Machine

/-- A service is Done: nothing is in progress any more, and R7 gets the link if the parameter says so (R181, R182). pc is
the link: no service changes it. -/
def finishService (s : State) : State :=
  if Config.trapWritesR7 then (s.setService none).setReg 7 s.pc else s.setService none

/-- The wait of GETC and IN (R183, R186, R191): the stop request is checked before the poll; a character ends the service,
a timeout leaves it waiting for the next step. Log 7. -/
def waitChar (svc : Service) (echo : Bool) (s : State) : State :=
  if s.stopPending then interrupt s
  else
    match poll s with
    | (some c, s1) => finishService ((if echo then s1.emit [c] else s1).setReg 0 (zext8 c))
    | (none, s1) => s1.setService (some svc)

/-- What PUTS emits for a string word: the low byte (R185, D15). -/
def putsBytes (w : Word) : List Byte := [w.extractLsb' 0 8]

/-- What PUTSP emits for a string word: the low byte, then the high byte unless it is x00 (R187, D15). -/
def putspBytes (w : Word) : List Byte :=
  if w.extractLsb' 8 8 = 0#8 then [w.extractLsb' 0 8] else [w.extractLsb' 0 8, w.extractLsb' 8 8]

/-- The string walk of PUTS and PUTSP (R185, R187): read the word at `a` through `MemRead`; a whole x0000 word ends the
service; any other word is emitted and the walk goes on at `a + 1`. After `fuel` words the walk goes on in the next step
(`pause`), so that a string without a terminator steps for ever. Log 8. -/
def walkString (bytes : Word → List Byte) (pause : Word → Service) (fuel : Nat) (a : Word) (s : State) : State :=
  match fuel with
  | 0 => s.setService (some (pause a))
  | n + 1 =>
    if (memRead a s).1 = 0#16 then finishService (memRead a s).2
    else walkString bytes pause n (a + 1#16) ((memRead a s).2.emit (bytes (memRead a s).1))

/-- How many string words one step reads at most: once round the address space. Log 8. -/
def stringFuel : Nat := 65536

/-- GETC (R183). -/
def serviceGetc (s : State) : State := waitChar .getc false s

/-- OUT (R184). -/
def serviceOut (s : State) : State := finishService (s.emit [(s.reg 0).extractLsb' 0 8])

/-- PUTS (R185). -/
def servicePuts (s : State) : State := walkString putsBytes .puts stringFuel (s.reg 0) s

/-- IN: the prompt, then the wait with echo (R186). -/
def serviceIn (s : State) : State := waitChar .inp true (s.emit Config.inPrompt)

/-- PUTSP (R187). -/
def servicePutsp (s : State) : State := walkString putspBytes .putsp stringFuel (s.reg 0) s

/-- HALT (R188). -/
def serviceHalt (s : State) : State := finishService ((s.emit Config.haltNotice).setRun (.halted .haltTrap))

/-- The next step of a service in progress: the wait without its prompt, the walk from where it stands. -/
def resumeService (svc : Service) (s : State) : State :=
  match svc with
  | .getc => waitChar .getc false s
  | .inp => waitChar .inp true s
  | .puts a => walkString putsBytes .puts stringFuel a s
  | .putsp a => walkString putspBytes .putsp stringFuel a s

/-- TRAP with any code (R181): the six services, or the fault UNDEFINED_TRAP (R189). -/
def execTrap (vect : BitVec 8) (s : State) : Host.Outcome State Fault Refusal :=
  if vect = 0x20#8 then .next (serviceGetc s)
  else if vect = 0x21#8 then .next (serviceOut s)
  else if vect = 0x22#8 then .next (servicePuts s)
  else if vect = 0x23#8 then .next (serviceIn s)
  else if vect = 0x24#8 then .next (servicePutsp s)
  else if vect = 0x25#8 then .next (serviceHalt s)
  else .next (raiseFault .undefinedTrap (encode (.trap vect)) s)

/-- TRAP x20 (R183). -/
def execTrapGetc (s : State) : Host.Outcome State Fault Refusal := .next (serviceGetc s)

/-- TRAP x21 (R184). -/
def execTrapOut (s : State) : Host.Outcome State Fault Refusal := .next (serviceOut s)

/-- TRAP x22 (R185). -/
def execTrapPuts (s : State) : Host.Outcome State Fault Refusal := .next (servicePuts s)

/-- TRAP x23 (R186). -/
def execTrapIn (s : State) : Host.Outcome State Fault Refusal := .next (serviceIn s)

/-- TRAP x24 (R187). -/
def execTrapPutsp (s : State) : Host.Outcome State Fault Refusal := .next (servicePutsp s)

/-- TRAP x25 (R188). -/
def execTrapHalt (s : State) : Host.Outcome State Fault Refusal := .next (serviceHalt s)

end Sys2Proof.Machine
end

