-- ==== Sys2Proof/Machine/Dispatch.lean ====
section
/-! DEFINITION. `Execute(tag)` for the instructions of the table (60_exceptions.md R210): one arm for each constructor. -/

namespace Sys2Proof.Machine

/-- Execute one instruction, fetched and with pc already incremented (R210). -/
def exec (i : Instr) (s : State) : Host.Outcome State Fault Refusal :=
  match i with
  | .addReg dr sr1 sr2 => Sys2Proof.Machine.execAddReg dr sr1 sr2 s
  | .addImm dr sr1 imm5 => Sys2Proof.Machine.execAddImm dr sr1 imm5 s
  | .andReg dr sr1 sr2 => Sys2Proof.Machine.execAndReg dr sr1 sr2 s
  | .andImm dr sr1 imm5 => Sys2Proof.Machine.execAndImm dr sr1 imm5 s
  | .not dr sr => Sys2Proof.Machine.execNot dr sr s
  | .ld dr off9 => Sys2Proof.Machine.execLd dr off9 s
  | .ldi dr off9 => Sys2Proof.Machine.execLdi dr off9 s
  | .ldr dr base off6 => Sys2Proof.Machine.execLdr dr base off6 s
  | .lea dr off9 => Sys2Proof.Machine.execLea dr off9 s
  | .st sr off9 => Sys2Proof.Machine.execSt sr off9 s
  | .sti sr off9 => Sys2Proof.Machine.execSti sr off9 s
  | .str sr base off6 => Sys2Proof.Machine.execStr sr base off6 s
  | .br n z p off9 => Sys2Proof.Machine.execBr n z p off9 s
  | .jmp base => Sys2Proof.Machine.execJmp base s
  | .jsr off11 => Sys2Proof.Machine.execJsr off11 s
  | .jsrr base => Sys2Proof.Machine.execJsrr base s
  | .rti low => Sys2Proof.Machine.execRti low s
  | .reserved low => Sys2Proof.Machine.execReserved low s
  | .trap vect => Sys2Proof.Machine.execTrap vect s
  | .trapGetc => Sys2Proof.Machine.execTrapGetc s
  | .trapOut => Sys2Proof.Machine.execTrapOut s
  | .trapPuts => Sys2Proof.Machine.execTrapPuts s
  | .trapIn => Sys2Proof.Machine.execTrapIn s
  | .trapPutsp => Sys2Proof.Machine.execTrapPutsp s
  | .trapHalt => Sys2Proof.Machine.execTrapHalt s

end Sys2Proof.Machine
end

