-- ==== Sys2Proof/Machine/Step.lean ====
section
/-! DEFINITION. One step of the unit (60_exceptions.md R210), and the placing of a word where the next step fetches it. -/

namespace Sys2Proof.Machine

/-- Check, fetch, decode and execute (R210). Halted and Faulted have no step (R211); before the load completes there is none
(R250). A service in progress goes on, with its own stop check where it has one (R191, R225); otherwise the stop request is
checked before the fetch (R225, R226). -/
def step (s : State) : Host.Outcome State Fault Refusal :=
  match s.runState with
  | .halted _ => .fault .runEnded
  | .faulted _ => .fault .runEnded
  | .running =>
    if s.loaded then
      match s.service with
      | some svc => .next (resumeService svc s)
      | none =>
        if s.stopPending then .next (interrupt s)
        else
          match decode (fetch s).1 with
          | .instr i => exec i (fetch s).2
          | .illegal op => execIllegal op (fetch s).1 (fetch s).2
    else .fault .imageNotLoaded

/-- `s` with the given word where `step` fetches its next instruction, and everything else that makes the very next step
fetch it: loaded, Running, no service in progress, no stop pending. A keyboard address holds no instruction (R50), so a pc
there is moved to x0000. Log 11. -/
def State.withFetchWord (s : State) (nbits w : Nat) : State :=
  let a := if isKeyboard s.pc then 0#16 else s.pc
  ((({ s with loaded := true, stopPending := false }.setRun .running).setService none).setPc a).setCell a
    (tableWord nbits w)

end Sys2Proof.Machine
end

