-- ==== Sys2Proof/Machine/Assembly.lean ====
section
/-! DEFINITION. The assembler's side of the encoding (30_encoding.md R86, R87): the text of an instruction, label offsets,
pseudo-instructions and the directives that give words. -/

namespace Sys2Proof.Machine

/-- A register's name (R86). -/
def regText (r : Reg) : String := "R" ++ toString r.val

/-- A decimal immediate or a raw offset, read as signed (R86). -/
def immText (v : BitVec k) : String := "#" ++ toString v.toInt

/-- The mnemonic of BR with the mask letters that are set (R86). -/
def brText (n z p : Bool) : String :=
  "BR" ++ (if n then "n" else "") ++ (if z then "z" else "") ++ (if p then "p" else "")

/-- One hexadecimal digit. -/
def hexDigit (v : BitVec 4) : Char := if v.toNat < 10 then Char.ofNat (48 + v.toNat) else Char.ofNat (55 + v.toNat)

/-- A trap code as `x` and two hexadecimal digits (R86). -/
def trapText (v : BitVec 8) : String :=
  "TRAP x" ++ String.singleton (hexDigit (v.extractLsb' 4 4)) ++ String.singleton (hexDigit (v.extractLsb' 0 4))

/-- A word that no syntax of R86 or R87 gives, as the `.FILL` that does. Log 18. -/
def fillText (w : Word) : String := ".FILL #" ++ toString w.toNat

/-- The assembler text of an instruction, an offset in a PC-relative place written as the raw field value (R86). BR with an
empty mask is NOP (R87) or a `.FILL`; the reserved opcode and an RTI with low bits are a `.FILL`. Log 18. -/
def instrText (i : Instr) : String :=
  match i with
  | .addReg d a b => "ADD " ++ regText d ++ ", " ++ regText a ++ ", " ++ regText b
  | .addImm d a v => "ADD " ++ regText d ++ ", " ++ regText a ++ ", " ++ immText v
  | .andReg d a b => "AND " ++ regText d ++ ", " ++ regText a ++ ", " ++ regText b
  | .andImm d a v => "AND " ++ regText d ++ ", " ++ regText a ++ ", " ++ immText v
  | .not d a => "NOT " ++ regText d ++ ", " ++ regText a
  | .ld d o => "LD " ++ regText d ++ ", " ++ immText o
  | .ldi d o => "LDI " ++ regText d ++ ", " ++ immText o
  | .ldr d b o => "LDR " ++ regText d ++ ", " ++ regText b ++ ", " ++ immText o
  | .lea d o => "LEA " ++ regText d ++ ", " ++ immText o
  | .st r o => "ST " ++ regText r ++ ", " ++ immText o
  | .sti r o => "STI " ++ regText r ++ ", " ++ immText o
  | .str r b o => "STR " ++ regText r ++ ", " ++ regText b ++ ", " ++ immText o
  | .br n z p o =>
    if n || z || p then brText n z p ++ " " ++ immText o else if o = 0#9 then "NOP" else fillText (encode i)
  | .jmp b => "JMP " ++ regText b
  | .jsr o => "JSR " ++ immText o
  | .jsrr b => "JSRR " ++ regText b
  | .rti low => if low = 0#12 then "RTI" else fillText (encode i)
  | .reserved _ => fillText (encode i)
  | .trap v => trapText v
  | .trapGetc => trapText 0x20#8
  | .trapOut => trapText 0x21#8
  | .trapPuts => trapText 0x22#8
  | .trapIn => trapText 0x23#8
  | .trapPutsp => trapText 0x24#8
  | .trapHalt => trapText 0x25#8

/-- A label operand in the instruction at `addr`: label - (addr + 1), modulo 2^16 (R86). -/
def labelOffset (label addr : Word) : Word := label - (addr + 1#16)

/-- The offset field of a label operand, if the label is in the field's range (R75, R76, R86). -/
def labelField (k : Nat) (label addr : Word) : Option (BitVec k) :=
  let o := labelOffset label addr
  if (o.setWidth k).signExtend 16 = o then some (o.setWidth k) else none

/-- The pseudo-instructions (R87). -/
inductive Pseudo where
  | ret
  | branch (off9 : BitVec 9)
  | nop
  | getc
  | out
  | puts
  | inp
  | putsp
  | halt
  deriving DecidableEq, Repr

/-- Their expansions (R87). -/
def Pseudo.expand (q : Pseudo) : Instr :=
  match q with
  | .ret => .jmp 7
  | .branch o => .br true true true o
  | .nop => .br false false false 0#9
  | .getc => .trapGetc
  | .out => .trapOut
  | .puts => .trapPuts
  | .inp => .trapIn
  | .putsp => .trapPutsp
  | .halt => .trapHalt

/-- The directives that give words (R87). `.ORIG` is the first word of the image (R253) and `.END` gives nothing. -/
inductive Directive where
  | fill (v : Word)
  | blkw (n : Nat)
  | stringz (chars : List Byte)
  deriving DecidableEq, Repr

/-- The words of a directive (R87). -/
def Directive.words (d : Directive) : List Word :=
  match d with
  | .fill v => [v]
  | .blkw n => List.replicate n 0#16
  | .stringz cs => cs.map (fun c => c.setWidth 16) ++ [0#16]

end Sys2Proof.Machine
end

