-- ==== Sys2Proof/Machine/Boundary.lean ====
section
/-! DEFINITION. The block boundary (00_scope.md R6, 60_exceptions.md R232): what the host may do to the unit (load an image,
request a stop, answer polls) and what it reads from it (run state, halt reason, fault record, exit code). -/

namespace Sys2Proof.Machine

/-- The ways an image is malformed, ImageFormatError (R254, D21). -/
inductive ImageError where
  /-- An odd number of bytes, a truncated word. -/
  | oddLength
  /-- Zero or one words. -/
  | tooShort
  /-- The image would extend past xFFFF. -/
  | pastTop
  deriving DecidableEq, Repr

/-- The image's bytes as big-endian words (R51, R253); none if a byte is left over. -/
def imageWords (bytes : List Byte) : Option (List Word) :=
  match bytes with
  | [] => some []
  | [_] => none
  | hi :: lo :: rest => (imageWords rest).map (fun ws => (hi ++ lo) :: ws)

/-- `load(origin, words)` (R6, R253): the words stored in the cells from the origin, with no keyboard interception; pc at the
origin; Running. The image must fit below the top of memory. -/
def loadAt (origin : Word) (words : List Word) (s : State) : Except ImageError State :=
  if words = [] then .error .tooShort
  else if origin.toNat + words.length ≤ 0x10000 then
    .ok { s with mem := Memory.setAll s.mem origin.toNat words, pc := origin, runState := .running, loaded := true }
  else .error .pastTop

/-- `Load(B)` (R253, R254): the byte count is checked first, then the word count, then the fit. -/
def loadImage (bytes : List Byte) (s : State) : Except ImageError State :=
  match imageWords bytes with
  | none => .error .oddLength
  | some [] => .error .tooShort
  | some (origin :: words) => loadAt origin words s

/-- Reset, then load (R250, R256): how every run starts. -/
def launch (bytes : List Byte) : Except ImageError State := loadImage bytes State.reset

/-- The host sets `stop_pending`; nothing clears it (R224). Log 10. -/
def State.requestStop (s : State) : State := { s with stopPending := true }

/-- The host fixes the answers of further polls: `none` a timeout, `some c` the next character (R47, R232). Log 3. -/
def State.offerInput (answers : List (Option Byte)) (s : State) : State := s.setInput (s.input ++ answers)

/-- `halt_reason`, while it is meaningful (R27). -/
def State.haltReason? (s : State) : Option HaltReason :=
  match s.runState with
  | .halted r => some r
  | .running => none
  | .faulted _ => none

/-- The fault record, while it is meaningful (R28). -/
def State.faultRecord? (s : State) : Option FaultRecord :=
  match s.runState with
  | .faulted r => some r
  | .running => none
  | .halted _ => none

/-- The numeric code of a cause (R212, D18). -/
def FaultCause.code (c : FaultCause) : Nat :=
  match c with
  | .reservedOpcode => 1
  | .rtiUnsupported => 2
  | .illegalOperand => 3
  | .undefinedTrap => 4

/-- The source's error classes (R230). -/
inductive ErrorClass where
  | imageFormatError
  | undefinedOpcodeError
  | undefinedTrapError
  | ioTimeout
  | interruptRequested
  deriving DecidableEq, Repr

/-- The class of a fault cause (R212, R230). -/
def FaultCause.errorClass (c : FaultCause) : ErrorClass :=
  match c with
  | .reservedOpcode | .rtiUnsupported | .illegalOperand => .undefinedOpcodeError
  | .undefinedTrap => .undefinedTrapError

/-- The exit code of an ended run; none while the unit is Running (R229). -/
def State.exitCode? (s : State) : Option Nat :=
  match s.runState with
  | .running => none
  | .halted .haltTrap => some 0
  | .halted .interrupted => some Config.exitInterrupt
  | .faulted _ => some Config.exitFault

end Sys2Proof.Machine
end

