-- ==== Sys2Proof/Safety.lean ====
section
/-! DEFINITION. The terms claims are stated in: what a frame leaves alone, the flags read as a sign, the cause a word faults
with, the invariant of the unit, and which states a run with its host can reach. -/

namespace Sys2Proof.Machine

/-! ## Frames -/

/-- Every general register outside the list is unchanged. -/
def SameRegsExcept (rs : List Reg) (s t : State) : Prop := ∀ r : Reg, r ∉ rs → t.reg r = s.reg r

/-- Every memory cell reads as before. -/
def SameMem (s t : State) : Prop := ∀ a : Word, t.cell a = s.cell a

/-- The keyboard latch and the input are unchanged. -/
def SameKeyboard (s t : State) : Prop :=
  t.kbdrLatch = s.kbdrLatch ∧ t.kbdrValid = s.kbdrValid ∧ t.input = s.input ∧ t.draws = s.draws

/-- The unit's status, the output stream and the service in progress are unchanged. -/
def SameStatus (s t : State) : Prop :=
  t.runState = s.runState ∧ t.stopPending = s.stopPending ∧ t.out = s.out ∧ t.loaded = s.loaded ∧ t.service = s.service

/-- The flags are the sign of the word read as a two's-complement number (R24: "N if signed value <0, Z if ==0, P if >0"). -/
def FlagsOfSign (v : Word) (f : Flags) : Prop :=
  (f.n = true ↔ v.toInt < 0) ∧ (f.z = true ↔ v.toInt = 0) ∧ (f.p = true ↔ 0 < v.toInt)

/-- Exactly one of the three flags is set (R23). -/
def Flags.exactlyOne (f : Flags) : Bool :=
  (f.n && !f.z && !f.p) || (!f.n && f.z && !f.p) || (!f.n && !f.z && f.p)

/-- What R7 holds after a completed TRAP (R182). -/
def linkedR7 (s : State) : Word := if Config.trapWritesR7 then s.pc else s.reg 7

/-- What an instruction that writes `DR` and the flags, and touches no memory, leaves alone (R21, R23). -/
def ResultFrame (dr : Reg) (s t : State) : Prop :=
  SameRegsExcept [dr] s t ∧ t.pc = s.pc ∧ SameMem s t ∧ SameKeyboard s t ∧ SameStatus s t

/-- What a load leaves alone; `r` is the state after its reads, which may have used the keyboard (R47, R48, R128). -/
def LoadFrame (dr : Reg) (s r t : State) : Prop :=
  SameRegsExcept [dr] s t ∧ t.pc = s.pc ∧ SameMem s t ∧ SameKeyboard r t ∧ SameStatus s t

/-- What a store of `v` at `a` does and leaves alone (R45, R49, R128): an ordinary cell holds `v`; KBDR loads the latch;
KBSR changes nothing; every other cell, every register, the flags and the pc are as before. -/
def Stored (a v : Word) (s t : State) : Prop :=
  (∀ b : Word, b ≠ a → t.cell b = s.cell b) ∧
  (isKeyboard a = false → Memory.wf s.mem = true → t.cell a = v) ∧
  (isKeyboard a = true → t.cell a = s.cell a) ∧
  (a = kbdrAddr → t.kbdrLatch = v ∧ t.kbdrValid = true) ∧
  (a ≠ kbdrAddr → t.kbdrLatch = s.kbdrLatch ∧ t.kbdrValid = s.kbdrValid) ∧
  SameRegsExcept [] s t ∧ t.flags = s.flags ∧ t.pc = s.pc ∧ t.input = s.input ∧ t.draws = s.draws ∧ SameStatus s t

/-- What a control transfer to `target` leaves alone, `rs` being the registers it may write (R25, R42). -/
def TransferFrame (rs : List Reg) (target : Word) (s t : State) : Prop :=
  t.pc = target ∧ SameRegsExcept rs s t ∧ t.flags = s.flags ∧ SameMem s t ∧ SameKeyboard s t ∧ SameStatus s t

/-- What every completed TRAP does and leaves alone, `rs` being the registers its service may write: the link (R182), no flag
(R192), the pc (R190), no memory (R42), no service in progress. -/
def TrapDone (rs : List Reg) (s t : State) : Prop :=
  t.reg 7 = linkedR7 s ∧ SameRegsExcept (7 :: rs) s t ∧ t.flags = s.flags ∧ t.pc = s.pc ∧ SameMem s t ∧
    t.stopPending = s.stopPending ∧ t.loaded = s.loaded ∧ t.service = none

/-- A string in memory (R185, R187): the words `ws`, none of them x0000, from `a`, then x0000, none of it at a keyboard
address, and short enough to fit once in the address space. -/
def StringAt (a : Word) (ws : List Word) (s : State) : Prop :=
  ws.length < 65536 ∧
  (∀ (k : Nat) (h : k < ws.length), isKeyboard (a + BitVec.ofNat 16 k) = false ∧
    s.cell (a + BitVec.ofNat 16 k) = ws[k] ∧ ws[k] ≠ 0#16) ∧
  isKeyboard (a + BitVec.ofNat 16 ws.length) = false ∧ s.cell (a + BitVec.ofNat 16 ws.length) = 0#16

/-- A string as `MemRead` gives it, at any address (R50, R185, R187): the words `ws`, none of them x0000, are read from `a` on in
order, then x0000, from the state `s` to the state `r`. -/
def StringReads (a : Word) (ws : List Word) (s r : State) : Prop :=
  match ws with
  | [] => memRead a s = (0#16, r)
  | w :: rest => w ≠ 0#16 ∧ (memRead a s).1 = w ∧ StringReads (a + 1#16) rest (memRead a s).2 r

/-- Word `k` of an image, from its bytes: the first byte of each pair is the high one (R51, R253). -/
def imageWord (bytes : List Byte) (k : Nat) : Nat :=
  (bytes.getD (2 * k) 0#8).toNat * 256 + (bytes.getD (2 * k + 1) 0#8).toNat

/-- `b` is `a` plus the signed offset `k`, modulo 65536 (R43). -/
def WrapsTo (a : Word) (k : Int) (b : Word) : Prop := (b.toNat : Int) = ((a.toNat : Int) + k) % 65536

/-! ## Kinds of instruction -/

/-- The seven instructions that write the flags (R23). -/
def writesFlags (i : Instr) : Bool :=
  match i with
  | .addReg _ _ _ | .addImm _ _ _ | .andReg _ _ _ | .andImm _ _ _ | .not _ _ => true
  | .ld _ _ | .ldi _ _ | .ldr _ _ _ | .lea _ _ => true
  | .st _ _ | .sti _ _ | .str _ _ _ | .br _ _ _ _ | .jmp _ | .jsr _ | .jsrr _ | .rti _ | .reserved _ => false
  | .trap _ | .trapGetc | .trapOut | .trapPuts | .trapIn | .trapPutsp | .trapHalt => false

/-- The three instructions that store (R42). -/
def isStore (i : Instr) : Bool :=
  match i with
  | .st _ _ | .sti _ _ | .str _ _ _ => true
  | .addReg _ _ _ | .addImm _ _ _ | .andReg _ _ _ | .andImm _ _ _ | .not _ _ => false
  | .ld _ _ | .ldi _ _ | .ldr _ _ _ | .lea _ _ => false
  | .br _ _ _ _ | .jmp _ | .jsr _ | .jsrr _ | .rti _ | .reserved _ => false
  | .trap _ | .trapGetc | .trapOut | .trapPuts | .trapIn | .trapPutsp | .trapHalt => false

/-- The instructions that can emit (R180); `trap v` can where `v` is a service's code. -/
def mayEmit (i : Instr) : Bool :=
  match i with
  | .trapOut | .trapPuts | .trapIn | .trapPutsp | .trapHalt => true
  | .trap v => isServiceCode v
  | .addReg _ _ _ | .addImm _ _ _ | .andReg _ _ _ | .andImm _ _ _ | .not _ _ => false
  | .ld _ _ | .ldi _ _ | .ldr _ _ _ | .lea _ _ | .st _ _ | .sti _ _ | .str _ _ _ => false
  | .br _ _ _ _ | .jmp _ | .jsr _ | .jsrr _ | .rti _ | .reserved _ | .trapGetc => false

/-- The registers an instruction may write, one row an instruction as in R21's table. -/
def writtenRegs (i : Instr) : List Reg :=
  match i with
  | .addReg d _ _ | .addImm d _ _ | .andReg d _ _ | .andImm d _ _ | .not d _ => [d]
  | .ld d _ | .ldi d _ | .ldr d _ _ | .lea d _ => [d]
  | .jsr _ | .jsrr _ => [7]
  | .trapGetc | .trapIn => if Config.trapWritesR7 then [0, 7] else [0]
  | .trapOut | .trapPuts | .trapPutsp | .trapHalt => if Config.trapWritesR7 then [7] else []
  | .trap v =>
    if isServiceCode v then
      (if v = 0x20#8 ∨ v = 0x23#8 then [0] else []) ++ (if Config.trapWritesR7 then [7] else [])
    else []
  | .st _ _ | .sti _ _ | .str _ _ _ | .br _ _ _ _ | .jmp _ | .rti _ | .reserved _ => []

/-- The undefined operand patterns, row by row as in R80's table. -/
def undefinedPattern (op : IllegalOp) (w : Word) : Prop :=
  match op with
  | .add => w.extractLsb' 12 4 = 0b0001#4 ∧ w.getLsbD 5 = false ∧ w.extractLsb' 3 2 ≠ 0b00#2
  | .and => w.extractLsb' 12 4 = 0b0101#4 ∧ w.getLsbD 5 = false ∧ w.extractLsb' 3 2 ≠ 0b00#2
  | .not => w.extractLsb' 12 4 = 0b1001#4 ∧ w.extractLsb' 0 6 ≠ 0b111111#6
  | .jsrr => w.extractLsb' 12 4 = 0b0100#4 ∧ w.getLsbD 11 = false ∧
      ¬ (w.extractLsb' 9 2 = 0b00#2 ∧ w.extractLsb' 0 6 = 0b000000#6)
  | .jmp => w.extractLsb' 12 4 = 0b1100#4 ∧ ¬ (w.extractLsb' 9 3 = 0b000#3 ∧ w.extractLsb' 0 6 = 0b000000#6)
  | .trap => w.extractLsb' 12 4 = 0b1111#4 ∧ w.extractLsb' 8 4 ≠ 0b0000#4

/-- The cause a word faults with, if executing it faults: known from the word alone (R212, R214). -/
def faultCauseOf (ir : Word) : Option FaultCause :=
  match decode ir with
  | .illegal _ => some .illegalOperand
  | .instr (.rti _) => some .rtiUnsupported
  | .instr (.reserved _) => some .reservedOpcode
  | .instr (.trap _) => some .undefinedTrap
  | .instr _ => none

/-! ## The invariant -/

/-- At most one flag is set: none before the first flag-writing instruction, exactly one after it (R23). -/
def Flags.exclusive (f : Flags) : Bool := !(f.n && f.z) && !(f.n && f.p) && !(f.z && f.p)

/-- The fault record is the truth about the word it names (R213, R214, R216), and PC holds the fetch address plus 1. -/
def State.recordTrue (s : State) : Prop :=
  ∀ r : FaultRecord, s.runState = .faulted r → faultCauseOf r.word = some r.cause ∧ s.pc = r.addr + 1#16

/-- The invariant of the unit: canonical memory, exclusive flags, a service in progress only while Running, a true fault
record. -/
structure State.Inv (s : State) : Prop where
  mem_wf : Memory.wf s.mem = true
  flags_exclusive : Flags.exclusive s.flags = true
  service_running : s.service ≠ none → s.runState = .running
  record_true : s.recordTrue

/-! ## Runs -/

/-- The states a run can reach: a launched image, then steps of the unit and moves of the host in any order (R232). -/
inductive Reachable : State → Prop where
  | launch {bytes : List Byte} {s : State} (h : launch bytes = .ok s) : Reachable s
  | step {s t : State} (hs : Reachable s) (h : step s = .next t) : Reachable t
  | requestStop {s : State} (hs : Reachable s) : Reachable s.requestStop
  | offerInput {s : State} (answers : List (Option Byte)) (hs : Reachable s) : Reachable (s.offerInput answers)

/-- A run is safe so far: it has not ended in Faulted. -/
def State.notFaulted (s : State) : Prop := ∀ r : FaultRecord, s.runState ≠ .faulted r

/-- `s` with bytes put in front of its output stream, as if they had been emitted earlier. -/
def State.outAfter (pre : List Byte) (s : State) : State := { s with out := pre ++ s.out }

/-- An outcome with its next state changed by `f`. -/
def mapNext (f : State → State) (o : Host.Outcome State Fault Refusal) : Host.Outcome State Fault Refusal :=
  match o with
  | .next s => .next (f s)
  | .fault r => .fault r
  | .refused r => .refused r

end Sys2Proof.Machine
end

