-- ==== Sys2Proof/Certificates/Slice0/Obligations.lean ====
section
/-! DEFINITION. The statements for the provers, each about every state and operand unless it says otherwise. Where a statement
rests on a value the spec or the model chose, its docstring names the decision (D<n>) or the log entry. -/

open Sys2Proof Sys2Proof.Machine

/-! ## Encoding -/

/-- Decoding the word of a well-formed instruction gives it back (R71, R85; field positions are the spec's decision D2). -/
def Obligations.DecodeOfEncode : Prop :=
  ∀ i : Instr, i.wellFormed = true → decode (encode i) = .instr i

/-- Encoding what was decoded gives the word back, and what is decoded is well formed: every word has one reading (R84, R85). -/
def Obligations.EncodeOfDecode : Prop :=
  ∀ (w : Word) (i : Instr), decode w = .instr i → i.wellFormed = true ∧ encode i = w

/-- A word is rejected under a name exactly if R80's table lists it under that name (decision D3). -/
def Obligations.UndefinedPatternsExactlyIllegal : Prop :=
  ∀ (w : Word) (op : IllegalOp), decode w = .illegal op ↔ undefinedPattern op w

/-- A few words written out from the formats of R71, one a family (a sanity check; decision D2). -/
def Obligations.SpecWordsDecode : Prop :=
  decode 0b0001_010_000_0_00_001#16 = .instr (.addReg 2 0 1) ∧
  decode 0b1001_001_000_111111#16 = .instr (.not 1 0) ∧
  decode 0b1010_000_000010011#16 = .instr (.ldi 0 19) ∧
  decode 0b0111_000_001_111111#16 = .instr (.str 0 1 63) ∧
  decode 0b0000_0_0_1_111111101#16 = .instr (.br false false true 509) ∧
  decode 0b1100_000_111_000000#16 = .instr (.jmp 7) ∧
  decode 0b1101_000100100011#16 = .instr (.reserved 0x123) ∧
  decode 0b1111_0000_00100101#16 = .instr .trapHalt ∧
  decode 0b0001_010_000_0_01_000#16 = .illegal .add

/-! ## Operate -/

/-- The three bits `setcc` writes are the sign of the value, and exactly one is set (R24). -/
def Obligations.FlagsAreTheSign : Prop :=
  ∀ (v : Word) (s : State),
    ((setcc v s).flags.n = v.getLsbD 15) ∧ ((setcc v s).flags.z = true ↔ v = 0#16) ∧
    ((setcc v s).flags.p = true ↔ v.getLsbD 15 = false ∧ v ≠ 0#16) ∧
    FlagsOfSign v (setcc v s).flags ∧ Flags.exactlyOne (setcc v s).flags = true

/-- ADD, register form: the sum modulo 2^16, its flags, and the frame (R100). -/
def Obligations.AddRegisterResult : Prop :=
  ∀ (dr sr1 sr2 : Reg) (s : State), ∃ t, exec (.addReg dr sr1 sr2) s = .next t ∧
    (t.reg dr).toNat = ((s.reg sr1).toNat + (s.reg sr2).toNat) % 65536 ∧
    FlagsOfSign (t.reg dr) t.flags ∧ ResultFrame dr s t

/-- ADD, immediate form: the register plus the immediate read as a signed number, modulo 2^16 (R101). -/
def Obligations.AddImmediateResult : Prop :=
  ∀ (dr sr1 : Reg) (imm5 : BitVec 5) (s : State), ∃ t, exec (.addImm dr sr1 imm5) s = .next t ∧
    WrapsTo (s.reg sr1) imm5.toInt (t.reg dr) ∧ FlagsOfSign (t.reg dr) t.flags ∧ ResultFrame dr s t

/-- AND, register form, bit by bit (R102). -/
def Obligations.AndRegisterResult : Prop :=
  ∀ (dr sr1 sr2 : Reg) (s : State), ∃ t, exec (.andReg dr sr1 sr2) s = .next t ∧
    (∀ k : Nat, (t.reg dr).getLsbD k = ((s.reg sr1).getLsbD k && (s.reg sr2).getLsbD k)) ∧
    FlagsOfSign (t.reg dr) t.flags ∧ ResultFrame dr s t

/-- AND, immediate form: bits 4 to 0 against the immediate's, bits 15 to 5 against its top bit (R103). -/
def Obligations.AndImmediateResult : Prop :=
  ∀ (dr sr1 : Reg) (imm5 : BitVec 5) (s : State), ∃ t, exec (.andImm dr sr1 imm5) s = .next t ∧
    (∀ k : Nat, (t.reg dr).getLsbD k =
      ((s.reg sr1).getLsbD k && (if k < 5 then imm5.getLsbD k else imm5.getLsbD 4))) ∧
    FlagsOfSign (t.reg dr) t.flags ∧ ResultFrame dr s t

/-- NOT: the 16-bit complement (R104). -/
def Obligations.NotResult : Prop :=
  ∀ (dr sr : Reg) (s : State), ∃ t, exec (.not dr sr) s = .next t ∧
    (t.reg dr).toNat = 65535 - (s.reg sr).toNat ∧ FlagsOfSign (t.reg dr) t.flags ∧ ResultFrame dr s t

/-! ## Loads, stores, LEA -/

/-- Every address sum wraps modulo 65536: PC plus offset, base plus offset, PC plus 1, and the string walk (R43). No address
stops an instruction or makes it fault: every instruction but RTI, the reserved opcode and TRAP with a code of its own answers a
next state that is not Faulted (R212). That a waiting GETC or IN and an endless PUTS or PUTSP answer one is the model's choice
(logs 7, 8). -/
def Obligations.AddressSumsWrap : Prop :=
  (∀ (off : BitVec 9) (s : State), WrapsTo s.pc off.toInt (pcRelative off s)) ∧
  (∀ (off : BitVec 11) (s : State), (pcRelative off s).toNat = (s.pc.toNat + (sext off).toNat) % 65536) ∧
  (∀ (base : Reg) (off : BitVec 6) (s : State), WrapsTo (s.reg base) off.toInt (baseOffset base off s)) ∧
  (∀ s : State, WrapsTo s.pc 1 (fetch s).2.pc) ∧
  (∀ (bytes : Word → List Byte) (pause : Word → Service) (n : Nat) (a : Word) (s : State), (memRead a s).1 ≠ 0#16 →
    ∃ b : Word, WrapsTo a 1 b ∧ walkString bytes pause (n + 1) a s =
      walkString bytes pause n b ((memRead a s).2.emit (bytes (memRead a s).1))) ∧
  (∀ (i : Instr) (s : State), s.runState = .running → (∀ low, i ≠ .rti low) → (∀ low, i ≠ .reserved low) →
    (∀ v, i ≠ .trap v) → ∃ t, exec i s = .next t ∧ ∀ r : FaultRecord, t.runState ≠ .faulted r)

/-- LD: the word `MemRead` gives at the PC-relative address, its flags, and the frame (R120, R128). -/
def Obligations.LoadResult : Prop :=
  ∀ (dr : Reg) (off9 : BitVec 9) (s : State), ∃ t, exec (.ld dr off9) s = .next t ∧
    t.reg dr = (memRead (pcRelative off9 s) s).1 ∧ FlagsOfSign (t.reg dr) t.flags ∧
    LoadFrame dr s (memRead (pcRelative off9 s) s).2 t

/-- LDI: the pointer read first, the data read at the pointer second (R121). -/
def Obligations.LoadIndirectResult : Prop :=
  ∀ (dr : Reg) (off9 : BitVec 9) (s : State), ∃ t, exec (.ldi dr off9) s = .next t ∧
    (let p := memRead (pcRelative off9 s) s
     t.reg dr = (memRead p.1 p.2).1 ∧ FlagsOfSign (t.reg dr) t.flags ∧ LoadFrame dr s (memRead p.1 p.2).2 t)

/-- LDR: base plus offset, the base read before DR is written (R122). -/
def Obligations.LoadBaseResult : Prop :=
  ∀ (dr base : Reg) (off6 : BitVec 6) (s : State), ∃ t, exec (.ldr dr base off6) s = .next t ∧
    t.reg dr = (memRead (baseOffset base off6 s) s).1 ∧ FlagsOfSign (t.reg dr) t.flags ∧
    LoadFrame dr s (memRead (baseOffset base off6 s) s).2 t

/-- LEA: the address itself, its flags, and no memory access (R123). -/
def Obligations.LoadAddressResult : Prop :=
  ∀ (dr : Reg) (off9 : BitVec 9) (s : State), ∃ t, exec (.lea dr off9) s = .next t ∧
    WrapsTo s.pc off9.toInt (t.reg dr) ∧ FlagsOfSign (t.reg dr) t.flags ∧ ResultFrame dr s t

/-- A load from KBSR polls once: a character is latched and x8000 loaded, a timeout loads x0000 (R47; decisions D9, D10). A poll
takes the first answer the host has offered and consumes it, and with none offered a free one, counting it (log 3). -/
def Obligations.LoadFromKeyboardStatus : Prop :=
  (∀ (r : Option Byte) (rest : List (Option Byte)) (s : State),
    (s.input = r :: rest → poll s = (r, { s with input := rest })) ∧
    (s.input = [] → poll s = (Config.kbdPoll s.draws, { s with draws := s.draws + 1 }) ∧
      poll (s.offerInput (r :: rest)) = (r, { s with input := rest }))) ∧
  (∀ (dr : Reg) (off9 : BitVec 9) (s : State), pcRelative off9 s = 0xFE00#16 →
    ∃ t, exec (.ld dr off9) s = .next t ∧ t.input = (poll s).2.input ∧ t.draws = (poll s).2.draws ∧
      (match (poll s).1 with
       | some c => t.reg dr = 0x8000#16 ∧ t.flags = ⟨true, false, false⟩ ∧ t.kbdrLatch.toNat = c.toNat ∧
           t.kbdrValid = true
       | none => t.reg dr = 0x0000#16 ∧ t.flags = ⟨false, true, false⟩ ∧ t.kbdrLatch = s.kbdrLatch ∧
           t.kbdrValid = s.kbdrValid))

/-- A load from KBDR gives the latched word once, and a free word after that; it does not poll (R48; decisions D9, D11,
log 4). It holds for every value of the free word. -/
def Obligations.LoadFromKeyboardData : Prop :=
  ∀ (dr : Reg) (off9 : BitVec 9) (s : State), pcRelative off9 s = 0xFE02#16 →
    ∃ t, exec (.ld dr off9) s = .next t ∧ t.input = s.input ∧ t.kbdrLatch = s.kbdrLatch ∧ t.kbdrValid = false ∧
      t.reg dr = if s.kbdrValid then s.kbdrLatch else Config.kbdrStale s.draws

/-- ST: what is stored, where, and the frame (R124). -/
def Obligations.StoreResult : Prop :=
  ∀ (sr : Reg) (off9 : BitVec 9) (s : State), ∃ t, exec (.st sr off9) s = .next t ∧
    Stored (pcRelative off9 s) (s.reg sr) s t

/-- STI: the pointer is read first, through `MemRead`; the store is made in the state that read leaves, and neither the pointer
read nor the store changes a register, the flags, the pc or the status (R125). -/
def Obligations.StoreIndirectResult : Prop :=
  ∀ (sr : Reg) (off9 : BitVec 9) (s : State), ∃ t, exec (.sti sr off9) s = .next t ∧
    (let p := memRead (pcRelative off9 s) s
     Stored p.1 (s.reg sr) p.2 t ∧ SameMem s p.2 ∧ SameRegsExcept [] s t ∧ t.flags = s.flags ∧ t.pc = s.pc ∧
       SameStatus s t)

/-- STR: base plus offset (R126). -/
def Obligations.StoreBaseResult : Prop :=
  ∀ (sr base : Reg) (off6 : BitVec 6) (s : State), ∃ t, exec (.str sr base off6) s = .next t ∧
    Stored (baseOffset base off6 s) (s.reg sr) s t

/-- A store at the post-increment pc, by ST, STI or STR, is what the next fetch reads (R59, R124, R125, R126; the spec derives
R59 from R56 and R50). -/
def Obligations.StoredWordIsFetchedNext : Prop :=
  ∀ (i : Instr) (sr : Reg) (s : State), Memory.wf s.mem = true → isKeyboard s.pc = false →
    (i = .st sr 0#9 ∨
      (∃ off9, i = .sti sr off9 ∧ (memRead (pcRelative off9 s) s).1 = s.pc) ∨
      (∃ base off6, i = .str sr base off6 ∧ baseOffset base off6 s = s.pc)) →
    ∃ t, exec i s = .next t ∧ (fetch t).1 = s.reg sr ∧ (fetch t).2.pc = s.pc + 1#16

/-! ## Control transfer -/

/-- BR: taken exactly if a named flag is set; then pc is the wrapped sum, else pc is unchanged; nothing else changes (R150). -/
def Obligations.BranchResult : Prop :=
  ∀ (n z p : Bool) (off9 : BitVec 9) (s : State), ∃ t, exec (.br n z p off9) s = .next t ∧
    TransferFrame [] t.pc s t ∧
    ((n = true ∧ s.flags.n = true) ∨ (z = true ∧ s.flags.z = true) ∨ (p = true ∧ s.flags.p = true) →
      WrapsTo s.pc off9.toInt t.pc) ∧
    (¬ ((n = true ∧ s.flags.n = true) ∨ (z = true ∧ s.flags.z = true) ∨ (p = true ∧ s.flags.p = true)) →
      t.pc = s.pc)

/-- JMP: pc is the base register; nothing else changes (R151). -/
def Obligations.JumpResult : Prop :=
  ∀ (base : Reg) (s : State), ∃ t, exec (.jmp base) s = .next t ∧ TransferFrame [] (s.reg base) s t

/-- JSR: R7 is the post-increment PC, pc the wrapped sum; no flag is written (R152). -/
def Obligations.CallResult : Prop :=
  ∀ (off11 : BitVec 11) (s : State), ∃ t, exec (.jsr off11) s = .next t ∧ t.reg 7 = s.pc ∧
    WrapsTo s.pc off11.toInt t.pc ∧ TransferFrame [7] t.pc s t

/-- JSRR: pc is what the base register held before R7 was written, for BaseR = R7 too (R153, decision D6). -/
def Obligations.CallRegisterResult : Prop :=
  ∀ (base : Reg) (s : State), ∃ t, exec (.jsrr base) s = .next t ∧ t.reg 7 = s.pc ∧ TransferFrame [7] (s.reg base) s t

/-- A call followed by RET lands at the post-increment PC of the call, with every register but R7 as it was (R151, R152, R153,
R156; the spec derives R156). -/
def Obligations.ReturnUndoesCall : Prop :=
  ∀ (i : Instr) (s : State), ((∃ off11, i = .jsr off11) ∨ (∃ base, i = .jsrr base)) →
    ∃ t u, exec i s = .next t ∧ exec (.jmp 7) t = .next u ∧ u.pc = s.pc ∧ SameRegsExcept [7] s u ∧
      u.flags = s.flags ∧ SameMem s u

/-- RTI always faults: the record names the fetch address and the raw word, nothing else changes (R82, R160, R213, R214). The
fetch address is decision D17 and log 9, the kept low bits are log 15. -/
def Obligations.RtiFaults : Prop :=
  ∀ (low : BitVec 12) (addr : Word) (s : State),
    decode (0b1000#4 ++ low) = .instr (.rti low) ∧
    exec (.rti low) { s with pc := addr + 1#16 } =
      .next { s with pc := addr + 1#16, runState := .faulted ⟨.rtiUnsupported, addr, 0b1000#4 ++ low⟩ }

/-- Every word of opcode 1101 decodes as reserved and faults RESERVED_OPCODE; nothing else changes (R81, R161, R213). The fetch
address in the record is decision D17 and log 9, the kept low bits are log 15. -/
def Obligations.ReservedFaults : Prop :=
  ∀ (low : BitVec 12) (addr : Word) (s : State),
    decode (0b1101#4 ++ low) = .instr (.reserved low) ∧
    exec (.reserved low) { s with pc := addr + 1#16 } =
      .next { s with pc := addr + 1#16, runState := .faulted ⟨.reservedOpcode, addr, 0b1101#4 ++ low⟩ }

/-! ## TRAP -/

/-- TRAP by its code: outside x20..x25 it faults UNDEFINED_TRAP before any service action, with a service's code it is that
service (R181, R189; the codes are decision D8, the fetch address in the record D17). -/
def Obligations.TrapDispatchesOnItsCode : Prop :=
  (∀ (v : BitVec 8) (addr : Word) (s : State), (v.toNat < 0x20 ∨ 0x25 < v.toNat) →
    exec (.trap v) { s with pc := addr + 1#16 } =
      .next { s with pc := addr + 1#16, runState := .faulted ⟨.undefinedTrap, addr, 0b11110000#8 ++ v⟩ }) ∧
  (∀ s : State,
    exec (.trap 0x20#8) s = exec .trapGetc s ∧ exec (.trap 0x21#8) s = exec .trapOut s ∧
    exec (.trap 0x22#8) s = exec .trapPuts s ∧ exec (.trap 0x23#8) s = exec .trapIn s ∧
    exec (.trap 0x24#8) s = exec .trapPutsp s ∧ exec (.trap 0x25#8) s = exec .trapHalt s)

/-- GETC with a character at hand: R0 is the character, zero-extended; no output, no flag, no latch (R183; decision D14, link
parameter D5). With an offered character first in line, that character is read and consumed (R47, log 3). -/
def Obligations.GetcReadsCharacter : Prop :=
  (∀ (s : State) (c : Byte), s.stopPending = false → (poll s).1 = some c →
    ∃ t, exec .trapGetc s = .next t ∧ (t.reg 0).toNat = c.toNat ∧ TrapDone [0] s t ∧ t.out = s.out ∧
      t.runState = s.runState ∧ SameKeyboard (poll s).2 t ∧ t.kbdrLatch = s.kbdrLatch ∧ t.kbdrValid = s.kbdrValid) ∧
  (∀ (s : State) (c : Byte) (rest : List (Option Byte)), s.stopPending = false → s.input = some c :: rest →
    ∃ t, exec .trapGetc s = .next t ∧ (t.reg 0).toNat = c.toNat ∧ t.input = rest ∧ t.draws = s.draws)

/-- IN with a character at hand: the prompt, then the echo, are emitted; R0 is the character (R186; decisions D14, D16). -/
def Obligations.InReadsCharacter : Prop :=
  ∀ (s : State) (c : Byte), s.stopPending = false → (poll s).1 = some c →
    ∃ t, exec .trapIn s = .next t ∧ (t.reg 0).toNat = c.toNat ∧ TrapDone [0] s t ∧
      t.out = s.out ++ Config.inPrompt ++ [c] ∧ t.runState = s.runState ∧ SameKeyboard (poll s).2 t ∧
      t.kbdrLatch = s.kbdrLatch ∧ t.kbdrValid = s.kbdrValid

/-- OUT emits the low byte of R0 (R184). -/
def Obligations.OutEmitsLowByte : Prop :=
  ∀ s : State, ∃ t, exec .trapOut s = .next t ∧ t.out = s.out ++ [BitVec.ofNat 8 ((s.reg 0).toNat % 256)] ∧
    TrapDone [] s t ∧ t.runState = s.runState ∧ SameKeyboard s t

/-- PUTS emits the low byte of every word of the string R0 points to, and nothing else (R185; decision D15). First for a string that lies in
ordinary memory, then for any string, one that crosses xFE00 or xFE02 too, whose words and x0000 come from `MemRead` (R50, D13)
and which leaves the keyboard as its reads do. Both end within 65536 words; where a longer one is cut is log 8. -/
def Obligations.PutsEmitsString : Prop :=
  (∀ (s : State) (ws : List Word), StringAt (s.reg 0) ws s →
    ∃ t, exec .trapPuts s = .next t ∧ t.out = s.out ++ ws.map (fun w => BitVec.ofNat 8 (w.toNat % 256)) ∧
      TrapDone [] s t ∧ t.runState = s.runState ∧ SameKeyboard s t) ∧
  (∀ (s r : State) (ws : List Word), ws.length < 65536 → StringReads (s.reg 0) ws s r →
    ∃ t, exec .trapPuts s = .next t ∧ t.out = s.out ++ ws.map (fun w => BitVec.ofNat 8 (w.toNat % 256)) ∧
      TrapDone [] s t ∧ t.runState = s.runState ∧ SameKeyboard r t)

/-- PUTSP emits the low byte of every word, then its high byte unless that is x00 (R187; decision D15). First for a string that lies in
ordinary memory, then for any string, one that crosses xFE00 or xFE02 too, whose words and x0000 come from `MemRead` (R50, D13)
and which leaves the keyboard as its reads do. Both end within 65536 words; where a longer one is cut is log 8. -/
def Obligations.PutspEmitsString : Prop :=
  (∀ (s : State) (ws : List Word), StringAt (s.reg 0) ws s →
    ∃ t, exec .trapPutsp s = .next t ∧ t.out = s.out ++ ws.flatMap (fun w => BitVec.ofNat 8 (w.toNat % 256) ::
        (if w.toNat < 256 then [] else [BitVec.ofNat 8 (w.toNat / 256)])) ∧
      TrapDone [] s t ∧ t.runState = s.runState ∧ SameKeyboard s t) ∧
  (∀ (s r : State) (ws : List Word), ws.length < 65536 → StringReads (s.reg 0) ws s r →
    ∃ t, exec .trapPutsp s = .next t ∧ t.out = s.out ++ ws.flatMap (fun w => BitVec.ofNat 8 (w.toNat % 256) ::
        (if w.toNat < 256 then [] else [BitVec.ofNat 8 (w.toNat / 256)])) ∧
      TrapDone [] s t ∧ t.runState = s.runState ∧ SameKeyboard r t)

/-- HALT emits the notice and enters Halted(HaltTrap), after which there is no step (R188, R211; notice parameter D16). -/
def Obligations.HaltEndsTheRun : Prop :=
  ∀ s : State, ∃ t, exec .trapHalt s = .next t ∧ t.runState = .halted .haltTrap ∧
    t.out = s.out ++ Config.haltNotice ∧ TrapDone [] s t ∧ SameKeyboard s t ∧ step t = .fault .runEnded

/-- A poll that times out leaves GETC or IN waiting: no register, flag, cell or latch changes, pc stays, and only IN's prompt
has been emitted (R183, R186, R191; one step a poll is log 7). -/
def Obligations.TimeoutLeavesServiceWaiting : Prop :=
  ∀ s : State, s.stopPending = false → (poll s).1 = none →
    exec .trapGetc s =
      .next { s with input := (poll s).2.input, draws := (poll s).2.draws, service := some .getc } ∧
    exec .trapIn s =
      .next { s with input := (poll s).2.input, draws := (poll s).2.draws, service := some .inp,
                     out := s.out ++ Config.inPrompt }

/-- The step of a waiting GETC is GETC again. The step of a waiting IN emits no second prompt: with a character at hand it echoes
it and completes, still Running, one answer used and the latch untouched; with a poll that times out again it emits nothing and
goes on waiting (R183, R186, R191; decision D14, link parameter D5, log 7). -/
def Obligations.WaitGoesOnInTheNextStep : Prop :=
  ∀ s : State, s.loaded = true → s.runState = .running →
    (s.service = some .getc → step s = exec .trapGetc s) ∧
    (∀ c : Byte, s.service = some .inp → s.stopPending = false → (poll s).1 = some c →
      ∃ t, step s = .next t ∧ (t.reg 0).toNat = c.toNat ∧ t.out = s.out ++ [c] ∧ TrapDone [0] s t ∧
        t.runState = s.runState ∧ SameKeyboard (poll s).2 t ∧ t.kbdrLatch = s.kbdrLatch ∧ t.kbdrValid = s.kbdrValid) ∧
    (s.service = some .inp → s.stopPending = false → (poll s).1 = none →
      step s = .next { s with input := (poll s).2.input, draws := (poll s).2.draws })

/-- Where the model cuts PUTS and PUTSP into steps changes nothing (R185, R187; log 8). PUTS and PUTSP start the walk at R0's
address, the step of a paused one goes on with it at the saved address, and a walk cut after `n` words and gone on for `m` more is
the walk of `n + m` words. -/
def Obligations.PausedStringGoesOn : Prop :=
  (∀ s : State,
    exec .trapPuts s = .next (walkString putsBytes .puts stringFuel (s.reg 0) s) ∧
    exec .trapPutsp s = .next (walkString putspBytes .putsp stringFuel (s.reg 0) s)) ∧
  (∀ (a : Word) (s : State), s.runState = .running → s.loaded = true →
    (s.service = some (.puts a) → step s = .next (walkString putsBytes .puts stringFuel a s)) ∧
    (s.service = some (.putsp a) → step s = .next (walkString putspBytes .putsp stringFuel a s))) ∧
  (∀ (n m : Nat) (a b : Word) (s : State),
    ((walkString putsBytes .puts n a s).service = some (.puts b) →
      walkString putsBytes .puts m b (walkString putsBytes .puts n a s) = walkString putsBytes .puts (n + m) a s) ∧
    ((walkString putspBytes .putsp n a s).service = some (.putsp b) →
      walkString putspBytes .putsp m b (walkString putspBytes .putsp n a s) =
        walkString putspBytes .putsp (n + m) a s))

/-! ## The step, faults, the stop request -/

/-- When the fetched word decodes to an instruction, a step is exec of it in the state the fetch leaves, pc already incremented
(R210, R22). The fetched word is the cell at an ordinary pc; at KBSR it is what one poll gives, at KBDR the latched word once and
a free word after that (R50; decisions D9 to D11 and D13, log 4). The premises `loaded` and no service in progress are the
model's fields (logs 6, 7, 8). -/
def Obligations.StepRunsDecodedInstruction : Prop :=
  (∀ (s : State) (i : Instr), s.runState = .running → s.loaded = true → s.service = none → s.stopPending = false →
    decode (fetch s).1 = .instr i → step s = exec i (fetch s).2) ∧
  (∀ s : State,
    (isKeyboard s.pc = false → fetch s = (s.cell s.pc, { s with pc := s.pc + 1#16 })) ∧
    (s.pc = 0xFE00#16 → fetch s =
      match poll s with
      | (some c, u) => (0x8000#16, { u with pc := 0xFE01#16, kbdrLatch := c.setWidth 16, kbdrValid := true })
      | (none, u) => (0x0000#16, { u with pc := 0xFE01#16 })) ∧
    (s.pc = 0xFE02#16 → fetch s =
      if s.kbdrValid then (s.kbdrLatch, { s with pc := 0xFE03#16, kbdrValid := false })
      else (Config.kbdrStale s.draws, { s with pc := 0xFE03#16, draws := s.draws + 1 })))

/-- When the fetched word is an undefined pattern, the step faults ILLEGAL_OPERAND: the record names the fetch address and the raw
word, pc is incremented, nothing changes but what the fetch changed, which at an ordinary pc is nothing else (R50, R80, R213, R214,
R215; decisions D3, D13, D17). -/
def Obligations.StepFaultsOnUndefinedPattern : Prop :=
  ∀ (s : State) (op : IllegalOp), s.runState = .running → s.loaded = true → s.service = none → s.stopPending = false →
    (undefinedPattern op (fetch s).1 →
      step s = .next { (fetch s).2 with runState := .faulted ⟨.illegalOperand, s.pc, (fetch s).1⟩ }) ∧
    (isKeyboard s.pc = false → undefinedPattern op (s.cell s.pc) →
      step s = .next { s with pc := s.pc + 1#16, runState := .faulted ⟨.illegalOperand, s.pc, s.cell s.pc⟩ })

/-- A fetch from KBSR polls: a pending character gives x8000, which is RTI and faults; a timeout gives x0000, a no-op, after which
registers, flags, cells, output and latch are as before (R50; decisions D9, D10, D13). -/
def Obligations.FetchFromKeyboardStatus : Prop :=
  ∀ s : State, s.runState = .running → s.loaded = true → s.service = none → s.stopPending = false →
    s.pc = 0xFE00#16 →
    ∃ t, step s = .next t ∧ t.pc = 0xFE01#16 ∧ SameRegsExcept [] s t ∧ t.flags = s.flags ∧ SameMem s t ∧
      t.out = s.out ∧ t.stopPending = false ∧ t.loaded = true ∧ t.service = none ∧
      t.input = (poll s).2.input ∧ t.draws = (poll s).2.draws ∧
      (match (poll s).1 with
       | some c => t.runState = .faulted ⟨.rtiUnsupported, 0xFE00#16, 0x8000#16⟩ ∧ t.kbdrLatch.toNat = c.toNat ∧
           t.kbdrValid = true
       | none => t.runState = .running ∧ t.kbdrLatch = s.kbdrLatch ∧ t.kbdrValid = s.kbdrValid)

/-- A step enters Faulted exactly if the fetched word is one that faults, and then the fault is precise: the record is true, pc
is the fetch address plus 1, the keyboard is as the fetch left it, and no register, flag, cell, output byte or stop request has
changed (R212, R213, R214; decision D17, log 9; `loaded` and `service` are the model's fields, logs 6, 7, 8). -/
def Obligations.FaultsArePrecise : Prop :=
  ∀ s t : State, s.service = none → s.stopPending = false → step s = .next t →
    (∀ c : FaultCause, faultCauseOf (fetch s).1 = some c →
      t.runState = .faulted ⟨c, s.pc, (fetch s).1⟩ ∧ t.pc = s.pc + 1#16 ∧ SameRegsExcept [] s t ∧
      t.flags = s.flags ∧ SameMem s t ∧ t.out = s.out ∧ SameKeyboard (fetch s).2 t ∧
      t.stopPending = s.stopPending ∧ t.loaded = s.loaded ∧ t.service = s.service) ∧
    (faultCauseOf (fetch s).1 = none → ∀ r : FaultRecord, t.runState ≠ .faulted r)

/-- A loaded, Running unit always has a next state: no word, operand or address stops the model (R43, R79, R210). The model's
choices it rests on: `loaded` (log 6), one step a poll of a waiting GETC or IN (log 7), and steps that go on for ever where the
spec calls an unterminated PUTS or PUTSP stuck (U8, log 8). -/
def Obligations.RunningUnitSteps : Prop :=
  ∀ s : State, s.runState = .running → s.loaded = true → ∃ t, step s = .next t

/-- Halted and Faulted have no step (R211). -/
def Obligations.NoStepAfterTheEnd : Prop :=
  ∀ s : State, s.runState ≠ .running → step s = .fault .runEnded ∧ ∀ t, step s ≠ .next t

/-- The stop request: the host sets it and no step clears it; at a fetch boundary it wins, and nothing but the run state changes;
a GETC or IN that finds it set is given up with no register written; a string being emitted does not look at it (R191, R224,
R225, R226; decision D19, logs 7, 8, 10). -/
def Obligations.StopRequestIsHonoured : Prop :=
  ∀ s : State,
    (s.requestStop.stopPending = true) ∧
    (∀ t, step s = .next t → t.stopPending = s.stopPending) ∧
    (s.stopPending = true →
      exec .trapGetc s = .next { s with runState := .halted .interrupted, service := none } ∧
      exec .trapIn s = .next { s with runState := .halted .interrupted, service := none,
                                      out := s.out ++ Config.inPrompt }) ∧
    (s.runState = .running → s.loaded = true → s.stopPending = true →
      ((s.service = none ∨ s.service = some .getc ∨ s.service = some .inp) →
        step s = .next { s with runState := .halted .interrupted, service := none }) ∧
      (∀ a : Word, (s.service = some (.puts a) ∨ s.service = some (.putsp a)) →
        ∃ t, step s = .next t ∧ t.runState = .running))

/-! ## Rules of the whole machine -/

/-- The instructions of R25, undefined patterns and a service going on never write N, Z or P (R25). -/
def Obligations.FlagsUntouchedByTheRest : Prop :=
  (∀ (i : Instr) (s t : State), writesFlags i = false → exec i s = .next t → t.flags = s.flags) ∧
  (∀ (op : IllegalOp) (ir : Word) (s t : State), execIllegal op ir s = .next t → t.flags = s.flags) ∧
  (∀ (svc : Service) (s : State), (resumeService svc s).flags = s.flags)

/-- Each of the seven flag-writing instructions completes and leaves exactly one flag set (R23). -/
def Obligations.FlagWritersSetExactlyOne : Prop :=
  ∀ (i : Instr) (s : State), writesFlags i = true → ∃ t, exec i s = .next t ∧ Flags.exactlyOne t.flags = true

/-- No instruction writes a register outside its row of R21's table (R21; TRAP's link is the parameter D5). -/
def Obligations.RegistersWrittenAsListed : Prop :=
  ∀ (i : Instr) (s t : State), exec i s = .next t → ∀ r : Reg, r ∉ writtenRegs i → t.reg r = s.reg r

/-- Only ST, STI and STR write memory: any other instruction, an undefined pattern and a service going on leave every cell as it
was (R42). -/
def Obligations.OnlyStoresWriteMemory : Prop :=
  (∀ (i : Instr) (s t : State), isStore i = false → exec i s = .next t → SameMem s t) ∧
  (∀ (op : IllegalOp) (ir : Word) (s t : State), execIllegal op ir s = .next t → SameMem s t) ∧
  (∀ (svc : Service) (s : State), SameMem s (resumeService svc s))

/-- Output is append-only, and only OUT, PUTS, IN, PUTSP and HALT emit (R180). -/
def Obligations.OutputOnlyGrows : Prop :=
  (∀ s t : State, step s = .next t → s.out <+: t.out) ∧
  (∀ (i : Instr) (s t : State), mayEmit i = false → exec i s = .next t → t.out = s.out)

/-- The unit never reads its output: with other bytes emitted earlier, every step is the same step (R180). -/
def Obligations.OutputIsNeverRead : Prop :=
  ∀ (pre : List Byte) (s : State), step (s.outAfter pre) = mapNext (State.outAfter pre) (step s)

/-- The invariant is kept by every step, from every state that has it: canonical memory, exclusive flags, a service in progress
only while Running, a fault record that is true of its word (R23, R213, R214; logs 2, 5, 7). -/
def Obligations.StepKeepsInvariant : Prop :=
  ∀ s t : State, s.Inv → step s = .next t → t.Inv

/-- The state after reset has the invariant. -/
def Obligations.ResetHasInvariant : Prop := State.reset.Inv

/-- Every state a run with its host can reach has the invariant and is loaded (R232, R250, R253). -/
def Obligations.ReachableStatesAreSound : Prop :=
  ∀ s : State, Reachable s → s.Inv ∧ s.loaded = true

/-! ## Reset, load, the boundary -/

/-- A register or cell nothing has written reads x0000 after reset, and no flag is set (R35, R36). A read at any address but the
two keyboard ones gives the stored cell and changes no state (R44; the two addresses are decision D9). -/
def Obligations.UnwrittenStateReadsZero : Prop :=
  (∀ r : Reg, State.reset.reg r = 0#16) ∧ (∀ a : Word, State.reset.cell a = 0#16) ∧
  State.reset.flags = ⟨false, false, false⟩ ∧
  (∀ (a : Word) (s : State), a ≠ 0xFE00#16 → a ≠ 0xFE02#16 → memRead a s = (s.cell a, s)) ∧
  (∀ (a : Word) (s : State), s.mem = State.reset.mem → isKeyboard a = false → memRead a s = (0#16, s))

/-- No step before the load, from reset or any other Running state without an image (R250; `loaded` is log 6). -/
def Obligations.NoStepBeforeTheLoad : Prop :=
  step State.reset = .fault .imageNotLoaded ∧
  ∀ s : State, s.runState = .running → s.loaded = false → step s = .fault .imageNotLoaded

/-- A well-formed image is launched: its words are pairs of bytes, high byte first; pc is the first one, the origin; the others
stand in the cells from the origin on; Running, every other cell, register and flag zero, the latch empty, no output (R35, R51,
R250, R251, R253; decisions D11, D21; `loaded` is log 6). -/
def Obligations.LaunchLoadsTheImage : Prop :=
  ∀ bytes : List Byte, bytes.length % 2 = 0 → 4 ≤ bytes.length →
    imageWord bytes 0 + (bytes.length / 2 - 1) ≤ 65536 →
    ∃ s, launch bytes = .ok s ∧ s.pc.toNat = imageWord bytes 0 ∧ s.runState = .running ∧ s.loaded = true ∧
      (∀ k : Nat, 1 ≤ k → k < bytes.length / 2 →
        (s.cell (s.pc + BitVec.ofNat 16 (k - 1))).toNat = imageWord bytes k) ∧
      (∀ a : Word, (a.toNat < imageWord bytes 0 ∨ imageWord bytes 0 + (bytes.length / 2 - 1) ≤ a.toNat) →
        s.cell a = 0#16) ∧
      (∀ r : Reg, s.reg r = 0#16) ∧ s.flags = ⟨false, false, false⟩ ∧ s.kbdrLatch = 0#16 ∧ s.kbdrValid = false ∧
      s.stopPending = false ∧ s.out = [] ∧ s.service = none ∧ Memory.wf s.mem = true

/-- The launch is refused exactly for an odd byte count, for zero or one words, and for an image past xFFFF (R253, R254;
decision D21). -/
def Obligations.MalformedImageIsRefused : Prop :=
  ∀ bytes : List Byte,
    (launch bytes = .error .oddLength ↔ bytes.length % 2 = 1) ∧
    (launch bytes = .error .tooShort ↔ bytes.length = 0 ∨ bytes.length = 2) ∧
    (launch bytes = .error .pastTop ↔
      bytes.length % 2 = 0 ∧ 4 ≤ bytes.length ∧ 65536 < imageWord bytes 0 + (bytes.length / 2 - 1))

/-- Exit codes: 0 after HALT, two distinct non-zero numbers for the other two ends, none while Running (R229; parameters
D23). -/
def Obligations.ExitCodesAreDistinct : Prop :=
  ∀ s : State,
    (s.runState = .running ↔ s.exitCode? = none) ∧ (s.runState = .halted .haltTrap ↔ s.exitCode? = some 0) ∧
    (s.runState = .halted .interrupted ↔ s.exitCode? = some Config.exitInterrupt) ∧
    ((∃ r, s.runState = .faulted r) ↔ s.exitCode? = some Config.exitFault)

/-- A label operand reaches its label: every label the field's range reaches from `addr + 1` has a field, and the field the
assembler gives, executed at `addr`, names the label again (R75, R76, R86; sign extension for BR and JSR is decision D4). -/
def Obligations.LabelOperandReachesLabel : Prop :=
  (∀ (label addr : Word) (d : Int), WrapsTo (addr + 1#16) d label →
    (-256 ≤ d ∧ d ≤ 255 → ∃ o : BitVec 9, labelField 9 label addr = some o ∧ o.toInt = d) ∧
    (-1024 ≤ d ∧ d ≤ 1023 → ∃ o : BitVec 11, labelField 11 label addr = some o ∧ o.toInt = d)) ∧
  (∀ (label addr : Word) (s : State), s.pc = addr + 1#16 →
    (∀ o : BitVec 9, labelField 9 label addr = some o → pcRelative o s = label) ∧
    (∀ o : BitVec 11, labelField 11 label addr = some o → pcRelative o s = label))
end

