-- ==== Sys2Proof/Laws/Decode.lean ====
section
/-! SUPPORT. Fields of a word: the value of a word put together from fields, a word put together from its own fields, and the
small lemmas of the decoder and the encoder. -/

namespace Sys2Proof

/-- The value of two fields side by side. -/
theorem toNat_append_add {n m : Nat} (x : BitVec n) (y : BitVec m) :
    (x ++ y).toNat = x.toNat * 2 ^ m + y.toNat := by
  rw [BitVec.toNat_append, ← Nat.shiftLeft_add_eq_or_of_lt y.isLt, Nat.shiftLeft_eq]

/-- A field of a word by its value. -/
theorem field_eq_iff (w : Word) (lo n : Nat) (x : BitVec n) :
    w.extractLsb' lo n = x ↔ w.toNat / 2 ^ lo % 2 ^ n = x.toNat := by
  rw [← BitVec.toNat_inj, BitVec.extractLsb'_toNat, Nat.shiftRight_eq_div_pow]

/-- One bit of a word by its value. -/
theorem bit_eq (w : Word) (k : Nat) : w.getLsbD k = decide (w.toNat / 2 ^ k % 2 = 1) := by
  rw [BitVec.getLsbD, Nat.testBit_eq_decide_div_mod_eq]

/-- The opcode from the 4-bit opcode field. -/
theorem opcodeOf_of_field {w : Word} {op : BitVec 4} (h : w.extractLsb' 12 4 = op) :
    opcodeOf w = Opcode.ofBits (op.getLsbD 3) (op.getLsbD 2) (op.getLsbD 1) (op.getLsbD 0) := by
  subst h
  simp [opcodeOf, BitVec.getElem_extractLsb']

/-- A register field from its 3 bits. -/
theorem regField_of_field {w : Word} {lo : Nat} {r : Reg} (h : w.extractLsb' lo 3 = regBits r) : regField w lo = r := by
  rw [regField, h]
  rfl

/-- The 3 bits of a register field. -/
theorem regBits_regField (w : Word) (lo : Nat) : regBits (regField w lo) = w.extractLsb' lo 3 := rfl

@[simp] theorem regBits_toNat (r : Reg) : (regBits r).toNat = r.val := rfl

@[simp] theorem flagBit_toNat (b : Bool) : (flagBit b).toNat = b.toNat := by cases b <;> rfl

/-- The value of a word in the format opcode, register, nine bits. -/
theorem toNat_4_3_9 (op : BitVec 4) (a : BitVec 3) (b : BitVec 9) :
    BitVec.toNat (w := 16) (op ++ a ++ b) = op.toNat * 4096 + a.toNat * 512 + b.toNat := by
  refine Eq.trans (toNat_append_add (op ++ a) b) ?_
  rw [toNat_append_add]
  omega

/-- The value of a word in the format opcode, two registers, six bits. -/
theorem toNat_4_3_3_6 (op : BitVec 4) (a b : BitVec 3) (c : BitVec 6) :
    BitVec.toNat (w := 16) (op ++ a ++ b ++ c) = op.toNat * 4096 + a.toNat * 512 + b.toNat * 64 + c.toNat := by
  refine Eq.trans (toNat_append_add (op ++ a ++ b) c) ?_
  rw [toNat_append_add, toNat_append_add]
  omega

/-- The value of a word in the register form of ADD and AND. -/
theorem toNat_4_3_3_3_3 (op : BitVec 4) (a b c d : BitVec 3) :
    BitVec.toNat (w := 16) (op ++ a ++ b ++ c ++ d) =
      op.toNat * 4096 + a.toNat * 512 + b.toNat * 64 + c.toNat * 8 + d.toNat := by
  refine Eq.trans (toNat_append_add (op ++ a ++ b ++ c) d) ?_
  rw [toNat_append_add, toNat_append_add, toNat_append_add]
  omega

/-- The value of a word in the immediate form of ADD and AND. -/
theorem toNat_4_3_3_1_5 (op : BitVec 4) (a b : BitVec 3) (m : BitVec 1) (c : BitVec 5) :
    BitVec.toNat (w := 16) (op ++ a ++ b ++ m ++ c) =
      op.toNat * 4096 + a.toNat * 512 + b.toNat * 64 + m.toNat * 32 + c.toNat := by
  refine Eq.trans (toNat_append_add (op ++ a ++ b ++ m) c) ?_
  rw [toNat_append_add, toNat_append_add, toNat_append_add]
  omega

/-- The value of a word in BR's format. -/
theorem toNat_4_1_1_1_9 (op : BitVec 4) (n z p : BitVec 1) (c : BitVec 9) :
    BitVec.toNat (w := 16) (op ++ n ++ z ++ p ++ c) =
      op.toNat * 4096 + n.toNat * 2048 + z.toNat * 1024 + p.toNat * 512 + c.toNat := by
  refine Eq.trans (toNat_append_add (op ++ n ++ z ++ p) c) ?_
  rw [toNat_append_add, toNat_append_add, toNat_append_add]
  omega

/-- The value of a word in JSR's format. -/
theorem toNat_4_1_11 (op : BitVec 4) (m : BitVec 1) (c : BitVec 11) :
    BitVec.toNat (w := 16) (op ++ m ++ c) = op.toNat * 4096 + m.toNat * 2048 + c.toNat := by
  refine Eq.trans (toNat_append_add (op ++ m) c) ?_
  rw [toNat_append_add]
  omega

/-- The value of a word whose low twelve bits are one field. -/
theorem toNat_4_12 (op : BitVec 4) (c : BitVec 12) :
    BitVec.toNat (w := 16) (op ++ c) = op.toNat * 4096 + c.toNat := toNat_append_add op c

/-- The value of a word in TRAP's format. -/
theorem toNat_8_8 (op v : BitVec 8) : BitVec.toNat (w := 16) (op ++ v) = op.toNat * 256 + v.toNat :=
  toNat_append_add op v

/-- A trap code outside the services keeps the constructor `trap`. -/
theorem decodeTrap_other {v : BitVec 8} (h : isServiceCode v = false) : decodeTrap v = .trap v := by
  have hv : v.toNat < 0x20 ∨ 0x25 < v.toNat := by
    simp only [isServiceCode, decide_eq_false_iff_not] at h
    omega
  unfold decodeTrap
  repeat rw [if_neg (by rintro rfl; simp at hv)]

end Sys2Proof
end

