-- ==== Sys2Proof/Laws/Memory.lean ====
section
/-! SUPPORT. The memory laws: a read after a write, the cells a write leaves alone, and that every memory operation keeps the
canonical form. -/

namespace Sys2Proof.Machine

/-- A cell other than the written one reads as before, in any memory. -/
theorem Memory.get_set_ne (m : Memory) {a b : Nat} (h : b ≠ a) (v : Word) :
    Memory.get (Memory.set m a v) b = Memory.get m b := by
  induction m with
  | nil => by_cases hv : v = 0#16 <;> simp [Memory.set, Memory.get, hv, h]
  | cons c rest ih =>
    obtain ⟨k, w⟩ := c
    simp only [Memory.set]
    split
    · split <;> simp [Memory.get, h]
    · split
      · next _ hk => subst hk; split <;> simp [Memory.get, h]
      · simp [Memory.get, ih]

/-- The canonical form of a list with a first cell. -/
theorem Memory.wf_cons (k : Nat) (v : Word) (rest : Memory) :
    Memory.wf ((k, v) :: rest) = true ↔
      k < 65536 ∧ v ≠ 0#16 ∧ (∀ c ∈ rest, k < c.1) ∧ Memory.wf rest = true := by
  simp [Memory.wf, and_assoc]

/-- An address below every listed one reads x0000. -/
theorem Memory.get_below {m : Memory} {a : Nat} (h : ∀ c ∈ m, a < c.1) : Memory.get m a = 0#16 := by
  induction m with
  | nil => rfl
  | cons c rest ih =>
    obtain ⟨k, w⟩ := c
    have hk : a < k := h (k, w) (by simp)
    simp [Memory.get, Nat.ne_of_lt hk, ih fun c hc => h c (by simp [hc])]

/-- A read after a write to the same cell gives the word written. -/
theorem Memory.get_set_same {m : Memory} (hm : Memory.wf m = true) (a : Nat) (v : Word) :
    Memory.get (Memory.set m a v) a = v := by
  induction m with
  | nil => by_cases hv : v = 0#16 <;> simp [Memory.set, Memory.get, hv]
  | cons c rest ih =>
    obtain ⟨k, w⟩ := c
    obtain ⟨-, -, hlt, hrest⟩ := (Memory.wf_cons k w rest).1 hm
    simp only [Memory.set]
    split
    · next h =>
      split
      · next hv =>
        rw [hv]
        exact Memory.get_below fun c hc => by
          rcases List.mem_cons.1 hc with rfl | hc
          · exact h
          · exact Nat.lt_trans h (hlt c hc)
      · simp [Memory.get]
    · split
      · next _ hk =>
        subst hk
        split
        · next hv => rw [hv]; exact Memory.get_below hlt
        · simp [Memory.get]
      · next hk => simp [Memory.get, hk, ih hrest]

/-- The addresses listed after a write are the written one and the ones before. -/
theorem Memory.mem_set {m : Memory} {a : Nat} {v : Word} {c : Cell} (h : c ∈ Memory.set m a v) :
    c = (a, v) ∨ c ∈ m := by
  induction m with
  | nil => by_cases hv : v = 0#16 <;> simp_all [Memory.set]
  | cons d rest ih =>
    obtain ⟨k, w⟩ := d
    simp only [Memory.set] at h
    split at h
    · split at h <;> simp_all
    · split at h
      · split at h <;> simp_all
        tauto
      · rcases List.mem_cons.1 h with rfl | h
        · simp
        · rcases ih h with h | h <;> simp [h]

/-- A write keeps the canonical form. -/
theorem Memory.set_wf {m : Memory} (hm : Memory.wf m = true) {a : Nat} (ha : a < 65536) (v : Word) :
    Memory.wf (Memory.set m a v) = true := by
  induction m with
  | nil => by_cases hv : v = 0#16 <;> simp [Memory.set, Memory.wf, hv, ha]
  | cons c rest ih =>
    obtain ⟨k, w⟩ := c
    have hcons := hm
    obtain ⟨hk, hw, hlt, hrest⟩ := (Memory.wf_cons k w rest).1 hm
    simp only [Memory.set]
    split
    · next h =>
      split
      · exact hm
      · next hv =>
        refine (Memory.wf_cons _ _ _).2 ⟨ha, hv, fun c hc => ?_, hcons⟩
        rcases List.mem_cons.1 hc with rfl | hc
        · exact h
        · exact Nat.lt_trans h (hlt c hc)
    · next h =>
      split
      · next heq =>
        split
        · exact hrest
        · next hv => exact (Memory.wf_cons _ _ _).2 ⟨ha, hv, fun c hc => heq ▸ hlt c hc, hrest⟩
      · next hne =>
        refine (Memory.wf_cons _ _ _).2 ⟨hk, hw, fun c hc => ?_, ih hrest⟩
        rcases Memory.mem_set hc with rfl | hc
        · have : a ≠ k := hne
          omega
        · exact hlt c hc

/-- Storing a run of words keeps the canonical form, if the run ends below the top. -/
theorem Memory.setAll_wf {ws : List Word} : ∀ {m : Memory} {a : Nat}, Memory.wf m = true → a + ws.length ≤ 65536 →
    Memory.wf (Memory.setAll m a ws) = true := by
  induction ws with
  | nil => intro m a hm _; exact hm
  | cons w rest ih =>
    intro m a hm h
    simp only [List.length_cons] at h
    exact ih (Memory.set_wf hm (by omega) w) (by omega)

/-- Storing a run of words leaves every cell outside the run alone. -/
theorem Memory.get_setAll_outside {ws : List Word} : ∀ {m : Memory} {a b : Nat}, (b < a ∨ a + ws.length ≤ b) →
    Memory.get (Memory.setAll m a ws) b = Memory.get m b := by
  induction ws with
  | nil => intros; rfl
  | cons w rest ih =>
    intro m a b h
    simp only [List.length_cons] at h
    rw [Memory.setAll, ih (by omega), Memory.get_set_ne _ (by omega)]

/-- The reset memory has the canonical form. -/
theorem State.reset_mem_wf : Memory.wf State.reset.mem = true := rfl

end Sys2Proof.Machine
end

