-- ==== Sys2Proof/Laws/State.lean ====
section
/-! SUPPORT. One lemma for each field of State under each named update, so that no proof unfolds a record update. -/

namespace Sys2Proof.Machine.State

variable (s : State)

/-! ### setReg -/

@[simp] theorem setReg_regs (r : Reg) (v : Word) : (s.setReg r v).regs = s.regs.set r v := rfl
@[simp] theorem setReg_pc (r : Reg) (v : Word) : (s.setReg r v).pc = s.pc := rfl
@[simp] theorem setReg_flags (r : Reg) (v : Word) : (s.setReg r v).flags = s.flags := rfl
@[simp] theorem setReg_mem (r : Reg) (v : Word) : (s.setReg r v).mem = s.mem := rfl
@[simp] theorem setReg_kbdrLatch (r : Reg) (v : Word) : (s.setReg r v).kbdrLatch = s.kbdrLatch := rfl
@[simp] theorem setReg_kbdrValid (r : Reg) (v : Word) : (s.setReg r v).kbdrValid = s.kbdrValid := rfl
@[simp] theorem setReg_stopPending (r : Reg) (v : Word) : (s.setReg r v).stopPending = s.stopPending := rfl
@[simp] theorem setReg_runState (r : Reg) (v : Word) : (s.setReg r v).runState = s.runState := rfl
@[simp] theorem setReg_out (r : Reg) (v : Word) : (s.setReg r v).out = s.out := rfl
@[simp] theorem setReg_loaded (r : Reg) (v : Word) : (s.setReg r v).loaded = s.loaded := rfl
@[simp] theorem setReg_service (r : Reg) (v : Word) : (s.setReg r v).service = s.service := rfl
@[simp] theorem setReg_input (r : Reg) (v : Word) : (s.setReg r v).input = s.input := rfl
@[simp] theorem setReg_draws (r : Reg) (v : Word) : (s.setReg r v).draws = s.draws := rfl

/-! ### setPc -/

@[simp] theorem setPc_regs (v : Word) : (s.setPc v).regs = s.regs := rfl
@[simp] theorem setPc_pc (v : Word) : (s.setPc v).pc = v := rfl
@[simp] theorem setPc_flags (v : Word) : (s.setPc v).flags = s.flags := rfl
@[simp] theorem setPc_mem (v : Word) : (s.setPc v).mem = s.mem := rfl
@[simp] theorem setPc_kbdrLatch (v : Word) : (s.setPc v).kbdrLatch = s.kbdrLatch := rfl
@[simp] theorem setPc_kbdrValid (v : Word) : (s.setPc v).kbdrValid = s.kbdrValid := rfl
@[simp] theorem setPc_stopPending (v : Word) : (s.setPc v).stopPending = s.stopPending := rfl
@[simp] theorem setPc_runState (v : Word) : (s.setPc v).runState = s.runState := rfl
@[simp] theorem setPc_out (v : Word) : (s.setPc v).out = s.out := rfl
@[simp] theorem setPc_loaded (v : Word) : (s.setPc v).loaded = s.loaded := rfl
@[simp] theorem setPc_service (v : Word) : (s.setPc v).service = s.service := rfl
@[simp] theorem setPc_input (v : Word) : (s.setPc v).input = s.input := rfl
@[simp] theorem setPc_draws (v : Word) : (s.setPc v).draws = s.draws := rfl

/-! ### setFlags -/

@[simp] theorem setFlags_regs (f : Flags) : (s.setFlags f).regs = s.regs := rfl
@[simp] theorem setFlags_pc (f : Flags) : (s.setFlags f).pc = s.pc := rfl
@[simp] theorem setFlags_flags (f : Flags) : (s.setFlags f).flags = f := rfl
@[simp] theorem setFlags_mem (f : Flags) : (s.setFlags f).mem = s.mem := rfl
@[simp] theorem setFlags_kbdrLatch (f : Flags) : (s.setFlags f).kbdrLatch = s.kbdrLatch := rfl
@[simp] theorem setFlags_kbdrValid (f : Flags) : (s.setFlags f).kbdrValid = s.kbdrValid := rfl
@[simp] theorem setFlags_stopPending (f : Flags) : (s.setFlags f).stopPending = s.stopPending := rfl
@[simp] theorem setFlags_runState (f : Flags) : (s.setFlags f).runState = s.runState := rfl
@[simp] theorem setFlags_out (f : Flags) : (s.setFlags f).out = s.out := rfl
@[simp] theorem setFlags_loaded (f : Flags) : (s.setFlags f).loaded = s.loaded := rfl
@[simp] theorem setFlags_service (f : Flags) : (s.setFlags f).service = s.service := rfl
@[simp] theorem setFlags_input (f : Flags) : (s.setFlags f).input = s.input := rfl
@[simp] theorem setFlags_draws (f : Flags) : (s.setFlags f).draws = s.draws := rfl

/-! ### setCell -/

@[simp] theorem setCell_regs (a v : Word) : (s.setCell a v).regs = s.regs := rfl
@[simp] theorem setCell_pc (a v : Word) : (s.setCell a v).pc = s.pc := rfl
@[simp] theorem setCell_flags (a v : Word) : (s.setCell a v).flags = s.flags := rfl
@[simp] theorem setCell_mem (a v : Word) : (s.setCell a v).mem = Memory.set s.mem a.toNat v := rfl
@[simp] theorem setCell_kbdrLatch (a v : Word) : (s.setCell a v).kbdrLatch = s.kbdrLatch := rfl
@[simp] theorem setCell_kbdrValid (a v : Word) : (s.setCell a v).kbdrValid = s.kbdrValid := rfl
@[simp] theorem setCell_stopPending (a v : Word) : (s.setCell a v).stopPending = s.stopPending := rfl
@[simp] theorem setCell_runState (a v : Word) : (s.setCell a v).runState = s.runState := rfl
@[simp] theorem setCell_out (a v : Word) : (s.setCell a v).out = s.out := rfl
@[simp] theorem setCell_loaded (a v : Word) : (s.setCell a v).loaded = s.loaded := rfl
@[simp] theorem setCell_service (a v : Word) : (s.setCell a v).service = s.service := rfl
@[simp] theorem setCell_input (a v : Word) : (s.setCell a v).input = s.input := rfl
@[simp] theorem setCell_draws (a v : Word) : (s.setCell a v).draws = s.draws := rfl

/-! ### setLatch -/

@[simp] theorem setLatch_regs (v : Word) (b : Bool) : (s.setLatch v b).regs = s.regs := rfl
@[simp] theorem setLatch_pc (v : Word) (b : Bool) : (s.setLatch v b).pc = s.pc := rfl
@[simp] theorem setLatch_flags (v : Word) (b : Bool) : (s.setLatch v b).flags = s.flags := rfl
@[simp] theorem setLatch_mem (v : Word) (b : Bool) : (s.setLatch v b).mem = s.mem := rfl
@[simp] theorem setLatch_kbdrLatch (v : Word) (b : Bool) : (s.setLatch v b).kbdrLatch = v := rfl
@[simp] theorem setLatch_kbdrValid (v : Word) (b : Bool) : (s.setLatch v b).kbdrValid = b := rfl
@[simp] theorem setLatch_stopPending (v : Word) (b : Bool) : (s.setLatch v b).stopPending = s.stopPending := rfl
@[simp] theorem setLatch_runState (v : Word) (b : Bool) : (s.setLatch v b).runState = s.runState := rfl
@[simp] theorem setLatch_out (v : Word) (b : Bool) : (s.setLatch v b).out = s.out := rfl
@[simp] theorem setLatch_loaded (v : Word) (b : Bool) : (s.setLatch v b).loaded = s.loaded := rfl
@[simp] theorem setLatch_service (v : Word) (b : Bool) : (s.setLatch v b).service = s.service := rfl
@[simp] theorem setLatch_input (v : Word) (b : Bool) : (s.setLatch v b).input = s.input := rfl
@[simp] theorem setLatch_draws (v : Word) (b : Bool) : (s.setLatch v b).draws = s.draws := rfl

/-! ### setRun -/

@[simp] theorem setRun_regs (r : RunState) : (s.setRun r).regs = s.regs := rfl
@[simp] theorem setRun_pc (r : RunState) : (s.setRun r).pc = s.pc := rfl
@[simp] theorem setRun_flags (r : RunState) : (s.setRun r).flags = s.flags := rfl
@[simp] theorem setRun_mem (r : RunState) : (s.setRun r).mem = s.mem := rfl
@[simp] theorem setRun_kbdrLatch (r : RunState) : (s.setRun r).kbdrLatch = s.kbdrLatch := rfl
@[simp] theorem setRun_kbdrValid (r : RunState) : (s.setRun r).kbdrValid = s.kbdrValid := rfl
@[simp] theorem setRun_stopPending (r : RunState) : (s.setRun r).stopPending = s.stopPending := rfl
@[simp] theorem setRun_runState (r : RunState) : (s.setRun r).runState = r := rfl
@[simp] theorem setRun_out (r : RunState) : (s.setRun r).out = s.out := rfl
@[simp] theorem setRun_loaded (r : RunState) : (s.setRun r).loaded = s.loaded := rfl
@[simp] theorem setRun_service (r : RunState) : (s.setRun r).service = s.service := rfl
@[simp] theorem setRun_input (r : RunState) : (s.setRun r).input = s.input := rfl
@[simp] theorem setRun_draws (r : RunState) : (s.setRun r).draws = s.draws := rfl

/-! ### emit -/

@[simp] theorem emit_regs (bs : List Byte) : (s.emit bs).regs = s.regs := rfl
@[simp] theorem emit_pc (bs : List Byte) : (s.emit bs).pc = s.pc := rfl
@[simp] theorem emit_flags (bs : List Byte) : (s.emit bs).flags = s.flags := rfl
@[simp] theorem emit_mem (bs : List Byte) : (s.emit bs).mem = s.mem := rfl
@[simp] theorem emit_kbdrLatch (bs : List Byte) : (s.emit bs).kbdrLatch = s.kbdrLatch := rfl
@[simp] theorem emit_kbdrValid (bs : List Byte) : (s.emit bs).kbdrValid = s.kbdrValid := rfl
@[simp] theorem emit_stopPending (bs : List Byte) : (s.emit bs).stopPending = s.stopPending := rfl
@[simp] theorem emit_runState (bs : List Byte) : (s.emit bs).runState = s.runState := rfl
@[simp] theorem emit_out (bs : List Byte) : (s.emit bs).out = s.out ++ bs := rfl
@[simp] theorem emit_loaded (bs : List Byte) : (s.emit bs).loaded = s.loaded := rfl
@[simp] theorem emit_service (bs : List Byte) : (s.emit bs).service = s.service := rfl
@[simp] theorem emit_input (bs : List Byte) : (s.emit bs).input = s.input := rfl
@[simp] theorem emit_draws (bs : List Byte) : (s.emit bs).draws = s.draws := rfl

/-! ### setService -/

@[simp] theorem setService_regs (v : Option Service) : (s.setService v).regs = s.regs := rfl
@[simp] theorem setService_pc (v : Option Service) : (s.setService v).pc = s.pc := rfl
@[simp] theorem setService_flags (v : Option Service) : (s.setService v).flags = s.flags := rfl
@[simp] theorem setService_mem (v : Option Service) : (s.setService v).mem = s.mem := rfl
@[simp] theorem setService_kbdrLatch (v : Option Service) : (s.setService v).kbdrLatch = s.kbdrLatch := rfl
@[simp] theorem setService_kbdrValid (v : Option Service) : (s.setService v).kbdrValid = s.kbdrValid := rfl
@[simp] theorem setService_stopPending (v : Option Service) : (s.setService v).stopPending = s.stopPending := rfl
@[simp] theorem setService_runState (v : Option Service) : (s.setService v).runState = s.runState := rfl
@[simp] theorem setService_out (v : Option Service) : (s.setService v).out = s.out := rfl
@[simp] theorem setService_loaded (v : Option Service) : (s.setService v).loaded = s.loaded := rfl
@[simp] theorem setService_service (v : Option Service) : (s.setService v).service = v := rfl
@[simp] theorem setService_input (v : Option Service) : (s.setService v).input = s.input := rfl
@[simp] theorem setService_draws (v : Option Service) : (s.setService v).draws = s.draws := rfl

/-! ### setInput -/

@[simp] theorem setInput_regs (v : List (Option Byte)) : (s.setInput v).regs = s.regs := rfl
@[simp] theorem setInput_pc (v : List (Option Byte)) : (s.setInput v).pc = s.pc := rfl
@[simp] theorem setInput_flags (v : List (Option Byte)) : (s.setInput v).flags = s.flags := rfl
@[simp] theorem setInput_mem (v : List (Option Byte)) : (s.setInput v).mem = s.mem := rfl
@[simp] theorem setInput_kbdrLatch (v : List (Option Byte)) : (s.setInput v).kbdrLatch = s.kbdrLatch := rfl
@[simp] theorem setInput_kbdrValid (v : List (Option Byte)) : (s.setInput v).kbdrValid = s.kbdrValid := rfl
@[simp] theorem setInput_stopPending (v : List (Option Byte)) : (s.setInput v).stopPending = s.stopPending := rfl
@[simp] theorem setInput_runState (v : List (Option Byte)) : (s.setInput v).runState = s.runState := rfl
@[simp] theorem setInput_out (v : List (Option Byte)) : (s.setInput v).out = s.out := rfl
@[simp] theorem setInput_loaded (v : List (Option Byte)) : (s.setInput v).loaded = s.loaded := rfl
@[simp] theorem setInput_service (v : List (Option Byte)) : (s.setInput v).service = s.service := rfl
@[simp] theorem setInput_input (v : List (Option Byte)) : (s.setInput v).input = v := rfl
@[simp] theorem setInput_draws (v : List (Option Byte)) : (s.setInput v).draws = s.draws := rfl

/-! ### countDraw -/

@[simp] theorem countDraw_regs : (s.countDraw).regs = s.regs := rfl
@[simp] theorem countDraw_pc : (s.countDraw).pc = s.pc := rfl
@[simp] theorem countDraw_flags : (s.countDraw).flags = s.flags := rfl
@[simp] theorem countDraw_mem : (s.countDraw).mem = s.mem := rfl
@[simp] theorem countDraw_kbdrLatch : (s.countDraw).kbdrLatch = s.kbdrLatch := rfl
@[simp] theorem countDraw_kbdrValid : (s.countDraw).kbdrValid = s.kbdrValid := rfl
@[simp] theorem countDraw_stopPending : (s.countDraw).stopPending = s.stopPending := rfl
@[simp] theorem countDraw_runState : (s.countDraw).runState = s.runState := rfl
@[simp] theorem countDraw_out : (s.countDraw).out = s.out := rfl
@[simp] theorem countDraw_loaded : (s.countDraw).loaded = s.loaded := rfl
@[simp] theorem countDraw_service : (s.countDraw).service = s.service := rfl
@[simp] theorem countDraw_input : (s.countDraw).input = s.input := rfl
@[simp] theorem countDraw_draws : (s.countDraw).draws = s.draws + 1 := rfl

end Sys2Proof.Machine.State
end

