-- ==== Sys2Proof/Laws/Ops.lean ====
section
/-! SUPPORT. What each shared operation can do, said once: registers, the keyboard, memory access, fetch, the end of a
service, the character wait and the string walk. -/

namespace Sys2Proof.Machine

/-! ### Registers and cells -/

/-- A register after a register write. -/
theorem State.reg_setReg (s : State) (r q : Reg) (v : Word) :
    (s.setReg r v).reg q = if q = r then v else s.reg q := by
  simp [State.reg, State.setReg, Vector.getElem_set, Fin.ext_iff, eq_comm]

/-- The written register. -/
@[simp] theorem State.reg_setReg_same (s : State) (r : Reg) (v : Word) : (s.setReg r v).reg r = v := by
  simp [State.reg_setReg]

/-- Every other register. -/
theorem State.reg_setReg_ne (s : State) {r q : Reg} (h : q ≠ r) (v : Word) : (s.setReg r v).reg q = s.reg q := by
  simp [State.reg_setReg, h]

/-- A register depends on the register file alone. -/
theorem State.reg_congr {s t : State} (h : t.regs = s.regs) (r : Reg) : t.reg r = s.reg r := by
  simp [State.reg, h]

/-- A cell depends on the memory alone. -/
theorem State.cell_congr {s t : State} (h : t.mem = s.mem) (a : Word) : t.cell a = s.cell a := by
  simp [State.cell, h]

/-- A cell other than the stored one. -/
theorem State.cell_setCell_ne (s : State) {a b : Word} (h : b ≠ a) (v : Word) : (s.setCell a v).cell b = s.cell b :=
  Memory.get_set_ne _ (fun e => h (BitVec.eq_of_toNat_eq e)) v

/-- The stored cell, in a canonical memory. -/
theorem State.cell_setCell_same {s : State} (h : Memory.wf s.mem = true) (a v : Word) : (s.setCell a v).cell a = v :=
  Memory.get_set_same h _ _

/-- A stored cell keeps the memory canonical. -/
theorem State.setCell_wf {s : State} (h : Memory.wf s.mem = true) (a v : Word) :
    Memory.wf (s.setCell a v).mem = true :=
  Memory.set_wf h a.isLt v

/-! ### The keyboard -/

/-- `poll` with an answer fixed by the host. -/
theorem poll_fixed {s : State} {r : Option Byte} {rest : List (Option Byte)} (h : s.input = r :: rest) :
    poll s = (r, s.setInput rest) := by
  simp [poll, h]

/-- `poll` with none fixed: the answer is free. -/
theorem poll_free {s : State} (h : s.input = []) : poll s = (Config.kbdPoll s.draws, s.countDraw) := by
  simp [poll, h]

/-- `KbsrRead` when the poll answers a character. -/
theorem kbsrRead_pending {s s1 : State} {c : Byte} (h : poll s = (some c, s1)) :
    kbsrRead s = (0x8000#16, s1.setLatch (zext8 c) true) := by
  simp [kbsrRead, h]

/-- `KbsrRead` when the poll times out. -/
theorem kbsrRead_idle {s s1 : State} (h : poll s = (none, s1)) : kbsrRead s = (0x0000#16, s1) := by
  simp [kbsrRead, h]

/-- `MemRead` of an ordinary address. -/
theorem memRead_plain {a : Word} (h : isKeyboard a = false) (s : State) : memRead a s = (s.cell a, s) := by
  simp [isKeyboard] at h
  simp [memRead, h]

/-- `MemWrite` to an ordinary address. -/
theorem memWrite_plain {a : Word} (h : isKeyboard a = false) (v : Word) (s : State) :
    memWrite a v s = s.setCell a v := by
  simp [isKeyboard] at h
  simp [memWrite, h]

/-! `poll` uses up an answer or a free value and changes nothing else. -/

@[simp] theorem poll_regs (s : State) : (poll s).2.regs = s.regs := by
  unfold poll; split <;> rfl

@[simp] theorem poll_pc (s : State) : (poll s).2.pc = s.pc := by
  unfold poll; split <;> rfl

@[simp] theorem poll_flags (s : State) : (poll s).2.flags = s.flags := by
  unfold poll; split <;> rfl

@[simp] theorem poll_mem (s : State) : (poll s).2.mem = s.mem := by
  unfold poll; split <;> rfl

@[simp] theorem poll_stopPending (s : State) : (poll s).2.stopPending = s.stopPending := by
  unfold poll; split <;> rfl

@[simp] theorem poll_runState (s : State) : (poll s).2.runState = s.runState := by
  unfold poll; split <;> rfl

@[simp] theorem poll_out (s : State) : (poll s).2.out = s.out := by
  unfold poll; split <;> rfl

@[simp] theorem poll_loaded (s : State) : (poll s).2.loaded = s.loaded := by
  unfold poll; split <;> rfl

@[simp] theorem poll_service (s : State) : (poll s).2.service = s.service := by
  unfold poll; split <;> rfl

@[simp] theorem poll_kbdrLatch (s : State) : (poll s).2.kbdrLatch = s.kbdrLatch := by
  unfold poll; split <;> rfl

@[simp] theorem poll_kbdrValid (s : State) : (poll s).2.kbdrValid = s.kbdrValid := by
  unfold poll; split <;> rfl

/-! `MemRead` changes at most the latch, its valid bit, the answers and the draws (R44, R47, R48). -/

@[simp] theorem kbsrRead_regs (s : State) : (kbsrRead s).2.regs = s.regs := by
  unfold kbsrRead; split <;> next h => simpa [h] using poll_regs s

@[simp] theorem kbdrRead_regs (s : State) : (kbdrRead s).2.regs = s.regs := by
  unfold kbdrRead; split <;> rfl

@[simp] theorem memRead_regs (a : Word) (s : State) : (memRead a s).2.regs = s.regs := by
  unfold memRead; split
  · simp
  · split <;> simp

@[simp] theorem kbsrRead_pc (s : State) : (kbsrRead s).2.pc = s.pc := by
  unfold kbsrRead; split <;> next h => simpa [h] using poll_pc s

@[simp] theorem kbdrRead_pc (s : State) : (kbdrRead s).2.pc = s.pc := by
  unfold kbdrRead; split <;> rfl

@[simp] theorem memRead_pc (a : Word) (s : State) : (memRead a s).2.pc = s.pc := by
  unfold memRead; split
  · simp
  · split <;> simp

@[simp] theorem kbsrRead_flags (s : State) : (kbsrRead s).2.flags = s.flags := by
  unfold kbsrRead; split <;> next h => simpa [h] using poll_flags s

@[simp] theorem kbdrRead_flags (s : State) : (kbdrRead s).2.flags = s.flags := by
  unfold kbdrRead; split <;> rfl

@[simp] theorem memRead_flags (a : Word) (s : State) : (memRead a s).2.flags = s.flags := by
  unfold memRead; split
  · simp
  · split <;> simp

@[simp] theorem kbsrRead_mem (s : State) : (kbsrRead s).2.mem = s.mem := by
  unfold kbsrRead; split <;> next h => simpa [h] using poll_mem s

@[simp] theorem kbdrRead_mem (s : State) : (kbdrRead s).2.mem = s.mem := by
  unfold kbdrRead; split <;> rfl

@[simp] theorem memRead_mem (a : Word) (s : State) : (memRead a s).2.mem = s.mem := by
  unfold memRead; split
  · simp
  · split <;> simp

@[simp] theorem kbsrRead_stopPending (s : State) : (kbsrRead s).2.stopPending = s.stopPending := by
  unfold kbsrRead; split <;> next h => simpa [h] using poll_stopPending s

@[simp] theorem kbdrRead_stopPending (s : State) : (kbdrRead s).2.stopPending = s.stopPending := by
  unfold kbdrRead; split <;> rfl

@[simp] theorem memRead_stopPending (a : Word) (s : State) : (memRead a s).2.stopPending = s.stopPending := by
  unfold memRead; split
  · simp
  · split <;> simp

@[simp] theorem kbsrRead_runState (s : State) : (kbsrRead s).2.runState = s.runState := by
  unfold kbsrRead; split <;> next h => simpa [h] using poll_runState s

@[simp] theorem kbdrRead_runState (s : State) : (kbdrRead s).2.runState = s.runState := by
  unfold kbdrRead; split <;> rfl

@[simp] theorem memRead_runState (a : Word) (s : State) : (memRead a s).2.runState = s.runState := by
  unfold memRead; split
  · simp
  · split <;> simp

@[simp] theorem kbsrRead_out (s : State) : (kbsrRead s).2.out = s.out := by
  unfold kbsrRead; split <;> next h => simpa [h] using poll_out s

@[simp] theorem kbdrRead_out (s : State) : (kbdrRead s).2.out = s.out := by
  unfold kbdrRead; split <;> rfl

@[simp] theorem memRead_out (a : Word) (s : State) : (memRead a s).2.out = s.out := by
  unfold memRead; split
  · simp
  · split <;> simp

@[simp] theorem kbsrRead_loaded (s : State) : (kbsrRead s).2.loaded = s.loaded := by
  unfold kbsrRead; split <;> next h => simpa [h] using poll_loaded s

@[simp] theorem kbdrRead_loaded (s : State) : (kbdrRead s).2.loaded = s.loaded := by
  unfold kbdrRead; split <;> rfl

@[simp] theorem memRead_loaded (a : Word) (s : State) : (memRead a s).2.loaded = s.loaded := by
  unfold memRead; split
  · simp
  · split <;> simp

@[simp] theorem kbsrRead_service (s : State) : (kbsrRead s).2.service = s.service := by
  unfold kbsrRead; split <;> next h => simpa [h] using poll_service s

@[simp] theorem kbdrRead_service (s : State) : (kbdrRead s).2.service = s.service := by
  unfold kbdrRead; split <;> rfl

@[simp] theorem memRead_service (a : Word) (s : State) : (memRead a s).2.service = s.service := by
  unfold memRead; split
  · simp
  · split <;> simp

/-! `MemWrite` changes at most one cell or the latch (R45, R49). -/

@[simp] theorem memWrite_regs (a v : Word) (s : State) : (memWrite a v s).regs = s.regs := by
  unfold memWrite; split
  · rfl
  · split <;> rfl

@[simp] theorem memWrite_pc (a v : Word) (s : State) : (memWrite a v s).pc = s.pc := by
  unfold memWrite; split
  · rfl
  · split <;> rfl

@[simp] theorem memWrite_flags (a v : Word) (s : State) : (memWrite a v s).flags = s.flags := by
  unfold memWrite; split
  · rfl
  · split <;> rfl

@[simp] theorem memWrite_stopPending (a v : Word) (s : State) : (memWrite a v s).stopPending = s.stopPending := by
  unfold memWrite; split
  · rfl
  · split <;> rfl

@[simp] theorem memWrite_runState (a v : Word) (s : State) : (memWrite a v s).runState = s.runState := by
  unfold memWrite; split
  · rfl
  · split <;> rfl

@[simp] theorem memWrite_out (a v : Word) (s : State) : (memWrite a v s).out = s.out := by
  unfold memWrite; split
  · rfl
  · split <;> rfl

@[simp] theorem memWrite_loaded (a v : Word) (s : State) : (memWrite a v s).loaded = s.loaded := by
  unfold memWrite; split
  · rfl
  · split <;> rfl

@[simp] theorem memWrite_service (a v : Word) (s : State) : (memWrite a v s).service = s.service := by
  unfold memWrite; split
  · rfl
  · split <;> rfl

@[simp] theorem memWrite_input (a v : Word) (s : State) : (memWrite a v s).input = s.input := by
  unfold memWrite; split
  · rfl
  · split <;> rfl

@[simp] theorem memWrite_draws (a v : Word) (s : State) : (memWrite a v s).draws = s.draws := by
  unfold memWrite; split
  · rfl
  · split <;> rfl

/-- Every cell but the addressed one is left alone by `MemWrite`. -/
theorem memWrite_cell_ne (s : State) {a b : Word} (h : b ≠ a) (v : Word) : (memWrite a v s).cell b = s.cell b := by
  unfold memWrite; split
  · rfl
  · split
    · rfl
    · exact State.cell_setCell_ne s h v

/-- `MemWrite` keeps the memory canonical. -/
theorem memWrite_wf {s : State} (h : Memory.wf s.mem = true) (a v : Word) : Memory.wf (memWrite a v s).mem = true := by
  unfold memWrite; split
  · exact h
  · split
    · exact h
    · exact State.setCell_wf h a v

/-! ### Fetch -/

/-- Fetching from an ordinary address: the cell at pc, and pc + 1. -/
theorem fetch_plain {s : State} (h : isKeyboard s.pc = false) : fetch s = (s.cell s.pc, s.setPc (s.pc + 1#16)) := by
  simp [fetch, memRead_plain h]

@[simp] theorem fetch_pc (s : State) : (fetch s).2.pc = s.pc + 1#16 := by simp [fetch]

@[simp] theorem fetch_regs (s : State) : (fetch s).2.regs = s.regs := by simp [fetch]

@[simp] theorem fetch_flags (s : State) : (fetch s).2.flags = s.flags := by simp [fetch]

@[simp] theorem fetch_mem (s : State) : (fetch s).2.mem = s.mem := by simp [fetch]

@[simp] theorem fetch_stopPending (s : State) : (fetch s).2.stopPending = s.stopPending := by simp [fetch]

@[simp] theorem fetch_runState (s : State) : (fetch s).2.runState = s.runState := by simp [fetch]

@[simp] theorem fetch_out (s : State) : (fetch s).2.out = s.out := by simp [fetch]

@[simp] theorem fetch_loaded (s : State) : (fetch s).2.loaded = s.loaded := by simp [fetch]

@[simp] theorem fetch_service (s : State) : (fetch s).2.service = s.service := by simp [fetch]

/-! ### Flags and results -/

/-- A register after a result is written. -/
theorem writeResult_reg (dr q : Reg) (v : Word) (s : State) :
    (writeResult dr v s).reg q = if q = dr then v else s.reg q :=
  State.reg_setReg s dr q v

@[simp] theorem writeResult_flags (dr : Reg) (v : Word) (s : State) : (writeResult dr v s).flags = Flags.ofWord v := rfl

@[simp] theorem writeResult_pc (dr : Reg) (v : Word) (s : State) : (writeResult dr v s).pc = s.pc := rfl

@[simp] theorem writeResult_mem (dr : Reg) (v : Word) (s : State) : (writeResult dr v s).mem = s.mem := rfl

@[simp] theorem writeResult_kbdrLatch (dr : Reg) (v : Word) (s : State) : (writeResult dr v s).kbdrLatch = s.kbdrLatch := rfl

@[simp] theorem writeResult_kbdrValid (dr : Reg) (v : Word) (s : State) : (writeResult dr v s).kbdrValid = s.kbdrValid := rfl

@[simp] theorem writeResult_stopPending (dr : Reg) (v : Word) (s : State) : (writeResult dr v s).stopPending = s.stopPending := rfl

@[simp] theorem writeResult_runState (dr : Reg) (v : Word) (s : State) : (writeResult dr v s).runState = s.runState := rfl

@[simp] theorem writeResult_out (dr : Reg) (v : Word) (s : State) : (writeResult dr v s).out = s.out := rfl

@[simp] theorem writeResult_loaded (dr : Reg) (v : Word) (s : State) : (writeResult dr v s).loaded = s.loaded := rfl

@[simp] theorem writeResult_service (dr : Reg) (v : Word) (s : State) : (writeResult dr v s).service = s.service := rfl

@[simp] theorem writeResult_input (dr : Reg) (v : Word) (s : State) : (writeResult dr v s).input = s.input := rfl

@[simp] theorem writeResult_draws (dr : Reg) (v : Word) (s : State) : (writeResult dr v s).draws = s.draws := rfl

/-! ### Services -/

/-- The end of a service: R7 gets the link exactly if the parameter says so (R182). -/
theorem finishService_reg (s : State) (q : Reg) :
    (finishService s).reg q = if Config.trapWritesR7 = true ∧ q = 7 then s.pc else s.reg q := by
  unfold finishService
  cases Config.trapWritesR7
  · simp [State.reg]
  · rw [if_pos rfl, State.reg_setReg]
    simp [State.reg]

@[simp] theorem finishService_service (s : State) : (finishService s).service = none := by
  unfold finishService; split <;> rfl

@[simp] theorem finishService_pc (s : State) : (finishService s).pc = s.pc := by
  unfold finishService; split <;> rfl

@[simp] theorem finishService_flags (s : State) : (finishService s).flags = s.flags := by
  unfold finishService; split <;> rfl

@[simp] theorem finishService_mem (s : State) : (finishService s).mem = s.mem := by
  unfold finishService; split <;> rfl

@[simp] theorem finishService_kbdrLatch (s : State) : (finishService s).kbdrLatch = s.kbdrLatch := by
  unfold finishService; split <;> rfl

@[simp] theorem finishService_kbdrValid (s : State) : (finishService s).kbdrValid = s.kbdrValid := by
  unfold finishService; split <;> rfl

@[simp] theorem finishService_stopPending (s : State) : (finishService s).stopPending = s.stopPending := by
  unfold finishService; split <;> rfl

@[simp] theorem finishService_runState (s : State) : (finishService s).runState = s.runState := by
  unfold finishService; split <;> rfl

@[simp] theorem finishService_out (s : State) : (finishService s).out = s.out := by
  unfold finishService; split <;> rfl

@[simp] theorem finishService_loaded (s : State) : (finishService s).loaded = s.loaded := by
  unfold finishService; split <;> rfl

@[simp] theorem finishService_input (s : State) : (finishService s).input = s.input := by
  unfold finishService; split <;> rfl

@[simp] theorem finishService_draws (s : State) : (finishService s).draws = s.draws := by
  unfold finishService; split <;> rfl

/-- The wait finds the stop request set (R191). -/
theorem waitChar_stopped {s : State} (h : s.stopPending = true) (svc : Service) (echo : Bool) :
    waitChar svc echo s = interrupt s := by
  simp [waitChar, h]

/-- The wait gets a character. -/
theorem waitChar_char {s s1 : State} {c : Byte} (h : s.stopPending = false) (hp : poll s = (some c, s1))
    (svc : Service) (echo : Bool) :
    waitChar svc echo s = finishService ((if echo then s1.emit [c] else s1).setReg 0 (zext8 c)) := by
  simp [waitChar, h, hp]

/-- The wait times out and goes on in the next step. -/
theorem waitChar_timeout {s s1 : State} (h : s.stopPending = false) (hp : poll s = (none, s1)) (svc : Service)
    (echo : Bool) : waitChar svc echo s = s1.setService (some svc) := by
  simp [waitChar, h, hp]

/-- The string walk at its terminator. -/
theorem walkString_end {bytes : Word → List Byte} {pause : Word → Service} {a : Word} {s : State}
    (h : (memRead a s).1 = 0#16) (n : Nat) :
    walkString bytes pause (n + 1) a s = finishService (memRead a s).2 := by
  simp [walkString, h]

/-- The string walk at any other word. -/
theorem walkString_word {bytes : Word → List Byte} {pause : Word → Service} {a : Word} {s : State}
    (h : (memRead a s).1 ≠ 0#16) (n : Nat) :
    walkString bytes pause (n + 1) a s =
      walkString bytes pause n (a + 1#16) ((memRead a s).2.emit (bytes (memRead a s).1)) := by
  simp [walkString, h]

/-- Which service is in progress makes no difference to a read. -/
theorem memRead_setService (a : Word) (v : Option Service) (s : State) :
    memRead a (s.setService v) = ((memRead a s).1, (memRead a s).2.setService v) := by
  unfold memRead kbsrRead kbdrRead poll
  cases s with
  | mk regs pc flags mem latch valid stop run out loaded service input draws =>
    cases input with
    | nil => cases valid <;> cases h : Config.kbdPoll draws <;> simp [State.setService, h] <;> split <;> (try split) <;> rfl
    | cons r rest => cases r <;> cases valid <;> simp [State.setService] <;> split <;> (try split) <;> rfl

/-- What has been emitted makes no difference to a read. -/
theorem memRead_emit (a : Word) (bs : List Byte) (s : State) :
    memRead a (s.emit bs) = ((memRead a s).1, (memRead a s).2.emit bs) := by
  unfold memRead kbsrRead kbdrRead poll
  cases s with
  | mk regs pc flags mem latch valid stop run out loaded service input draws =>
    cases input with
    | nil => cases valid <;> cases h : Config.kbdPoll draws <;> simp [State.emit, h] <;> split <;> (try split) <;> rfl
    | cons r rest => cases r <;> cases valid <;> simp [State.emit] <;> split <;> (try split) <;> rfl

theorem finishService_setService (v : Option Service) (s : State) : finishService (s.setService v) = finishService s := by
  unfold finishService; split <;> rfl

/-- A walk overwrites the service in progress, so it goes on from a pause as if there had been none. -/
theorem walkString_setService (bytes : Word → List Byte) (pause : Word → Service) (n : Nat) (a : Word) (v : Option Service)
    (s : State) : walkString bytes pause n a (s.setService v) = walkString bytes pause n a s := by
  induction n generalizing a s with
  | zero => rfl
  | succ n ih =>
    simp only [walkString, memRead_setService, finishService_setService]
    split
    · rfl
    · exact ih _ (State.emit _ _)

/-! The walk never changes these. -/

@[simp] theorem walkString_pc (bytes : Word → List Byte) (pause : Word → Service) (n : Nat) (a : Word) (s : State) :
    (walkString bytes pause n a s).pc = s.pc := by
  induction n generalizing a s with
  | zero => rfl
  | succ n ih => unfold walkString; split <;> simp [ih]

@[simp] theorem walkString_flags (bytes : Word → List Byte) (pause : Word → Service) (n : Nat) (a : Word) (s : State) :
    (walkString bytes pause n a s).flags = s.flags := by
  induction n generalizing a s with
  | zero => rfl
  | succ n ih => unfold walkString; split <;> simp [ih]

@[simp] theorem walkString_mem (bytes : Word → List Byte) (pause : Word → Service) (n : Nat) (a : Word) (s : State) :
    (walkString bytes pause n a s).mem = s.mem := by
  induction n generalizing a s with
  | zero => rfl
  | succ n ih => unfold walkString; split <;> simp [ih]

@[simp] theorem walkString_stopPending (bytes : Word → List Byte) (pause : Word → Service) (n : Nat) (a : Word) (s : State) :
    (walkString bytes pause n a s).stopPending = s.stopPending := by
  induction n generalizing a s with
  | zero => rfl
  | succ n ih => unfold walkString; split <;> simp [ih]

@[simp] theorem walkString_runState (bytes : Word → List Byte) (pause : Word → Service) (n : Nat) (a : Word) (s : State) :
    (walkString bytes pause n a s).runState = s.runState := by
  induction n generalizing a s with
  | zero => rfl
  | succ n ih => unfold walkString; split <;> simp [ih]

@[simp] theorem walkString_loaded (bytes : Word → List Byte) (pause : Word → Service) (n : Nat) (a : Word) (s : State) :
    (walkString bytes pause n a s).loaded = s.loaded := by
  induction n generalizing a s with
  | zero => rfl
  | succ n ih => unfold walkString; split <;> simp [ih]

/-- The walk writes no register but the link. -/
theorem walkString_reg (bytes : Word → List Byte) (pause : Word → Service) (n : Nat) (a : Word) (s : State) {q : Reg}
    (h : q ≠ 7) : (walkString bytes pause n a s).reg q = s.reg q := by
  induction n generalizing a s with
  | zero => rfl
  | succ n ih =>
    unfold walkString; split
    · rw [finishService_reg]; simp [h, State.reg]
    · rw [ih]; simp [State.reg]

/-! ### One step -/

/-- Everything a step that answers a next state can be: a service going on, the stop request honoured, or an instruction or an
undefined pattern executed after its fetch (R210). -/
theorem step_cases {s t : State} (h : step s = .next t) :
    s.runState = .running ∧ s.loaded = true ∧
      ((∃ svc, s.service = some svc ∧ t = resumeService svc s) ∨
        (s.service = none ∧ s.stopPending = true ∧ t = interrupt s) ∨
        (s.service = none ∧ s.stopPending = false ∧ ∃ i, decode (fetch s).1 = .instr i ∧ exec i (fetch s).2 = .next t) ∨
        (s.service = none ∧ s.stopPending = false ∧ ∃ op, decode (fetch s).1 = .illegal op ∧
          t = raiseFault .illegalOperand (fetch s).1 (fetch s).2)) := by
  unfold step at h
  split at h
  · cases h
  · cases h
  · next hr =>
    split at h
    · next hl =>
      refine ⟨hr, hl, ?_⟩
      split at h
      · next svc hs => exact .inl ⟨svc, hs, by cases h; rfl⟩
      · next hs =>
        split at h
        · next hp => exact .inr (.inl ⟨hs, hp, by cases h; rfl⟩)
        · next hp =>
          have hp' : s.stopPending = false := by simpa using hp
          split at h
          · next i hd => exact .inr (.inr (.inl ⟨hs, hp', i, hd, h⟩))
          · next op hd => exact .inr (.inr (.inr ⟨hs, hp', op, hd, by cases op <;> cases h <;> rfl⟩))
    · cases h

end Sys2Proof.Machine
end

