-- ==== Sys2Proof/Laws/PerInstr.lean ====
section
/-! SUPPORT. Per-instruction family TableRow: the encoder's word holds, in every bit the row of spec/opcode_table.json fixes,
what the row says. -/

namespace Sys2Proof.Laws.TableRow

/-- The word of `i` matches its row: the bits under the row's mask are the row's match. -/
def Statement (i : Instr) : Prop := encode i &&& rowMask i = rowMatch i

theorem addReg (dr sr1 sr2 : Reg) : Statement (.addReg dr sr1 sr2) := by
  have h : (0b0001#4 ++ regBits dr ++ regBits sr1 ++ 0b000#3 ++ regBits sr2) &&& (0xF#4 ++ 0#3 ++ 0#3 ++ 7#3 ++ 0#3)
      = 0x1#4 ++ 0#3 ++ 0#3 ++ 0#3 ++ 0#3 := by
    rw [BitVec.and_append, BitVec.and_append, BitVec.and_append, BitVec.and_append]; simp
  exact h

theorem addImm (dr sr1 : Reg) (imm5 : BitVec 5) : Statement (.addImm dr sr1 imm5) := by
  have h : (0b0001#4 ++ regBits dr ++ regBits sr1 ++ 0b1#1 ++ imm5) &&& (0xF#4 ++ 0#3 ++ 0#3 ++ 1#1 ++ 0#5)
      = 0x1#4 ++ 0#3 ++ 0#3 ++ 1#1 ++ 0#5 := by
    rw [BitVec.and_append, BitVec.and_append, BitVec.and_append, BitVec.and_append]; simp
  exact h

theorem andReg (dr sr1 sr2 : Reg) : Statement (.andReg dr sr1 sr2) := by
  have h : (0b0101#4 ++ regBits dr ++ regBits sr1 ++ 0b000#3 ++ regBits sr2) &&& (0xF#4 ++ 0#3 ++ 0#3 ++ 7#3 ++ 0#3)
      = 0x5#4 ++ 0#3 ++ 0#3 ++ 0#3 ++ 0#3 := by
    rw [BitVec.and_append, BitVec.and_append, BitVec.and_append, BitVec.and_append]; simp
  exact h

theorem andImm (dr sr1 : Reg) (imm5 : BitVec 5) : Statement (.andImm dr sr1 imm5) := by
  have h : (0b0101#4 ++ regBits dr ++ regBits sr1 ++ 0b1#1 ++ imm5) &&& (0xF#4 ++ 0#3 ++ 0#3 ++ 1#1 ++ 0#5)
      = 0x5#4 ++ 0#3 ++ 0#3 ++ 1#1 ++ 0#5 := by
    rw [BitVec.and_append, BitVec.and_append, BitVec.and_append, BitVec.and_append]; simp
  exact h

theorem not (dr sr : Reg) : Statement (.not dr sr) := by
  have h : (0b1001#4 ++ regBits dr ++ regBits sr ++ 0b111111#6) &&& (0xF#4 ++ 0#3 ++ 0#3 ++ 63#6)
      = 0x9#4 ++ 0#3 ++ 0#3 ++ 63#6 := by
    rw [BitVec.and_append, BitVec.and_append, BitVec.and_append]; simp
  exact h

/-- Only the opcode is fixed: a 3-bit field and a 9-bit field follow. -/
theorem opcode_3_9 (op : BitVec 4) (a : BitVec 3) (b : BitVec 9) :
    (op ++ a ++ b) &&& (0xF#4 ++ 0#3 ++ 0#9) = op ++ 0#3 ++ 0#9 := by
  have h : op &&& 0xF#4 = op := BitVec.and_allOnes
  rw [BitVec.and_append, BitVec.and_append, h]; simp

/-- Only the opcode is fixed: two 3-bit fields and a 6-bit field follow. -/
theorem opcode_3_3_6 (op : BitVec 4) (a b : BitVec 3) (c : BitVec 6) :
    (op ++ a ++ b ++ c) &&& (0xF#4 ++ 0#3 ++ 0#3 ++ 0#6) = op ++ 0#3 ++ 0#3 ++ 0#6 := by
  have h : op &&& 0xF#4 = op := BitVec.and_allOnes
  rw [BitVec.and_append, BitVec.and_append, BitVec.and_append, h]; simp

/-- Only the opcode is fixed: twelve bits follow. -/
theorem opcode_12 (op : BitVec 4) (a : BitVec 12) : (op ++ a) &&& (0xF#4 ++ 0#12) = op ++ 0#12 := by
  have h : op &&& 0xF#4 = op := BitVec.and_allOnes
  rw [BitVec.and_append, h]; simp

theorem ld (dr : Reg) (off9 : BitVec 9) : Statement (.ld dr off9) := opcode_3_9 0x2 (regBits dr) off9

theorem ldi (dr : Reg) (off9 : BitVec 9) : Statement (.ldi dr off9) := opcode_3_9 0xA (regBits dr) off9

theorem ldr (dr base : Reg) (off6 : BitVec 6) : Statement (.ldr dr base off6) :=
  opcode_3_3_6 0x6 (regBits dr) (regBits base) off6

theorem lea (dr : Reg) (off9 : BitVec 9) : Statement (.lea dr off9) := opcode_3_9 0xE (regBits dr) off9

theorem st (sr : Reg) (off9 : BitVec 9) : Statement (.st sr off9) := opcode_3_9 0x3 (regBits sr) off9

theorem sti (sr : Reg) (off9 : BitVec 9) : Statement (.sti sr off9) := opcode_3_9 0xB (regBits sr) off9

theorem str (sr base : Reg) (off6 : BitVec 6) : Statement (.str sr base off6) :=
  opcode_3_3_6 0x7 (regBits sr) (regBits base) off6

theorem br (n z p : Bool) (off9 : BitVec 9) : Statement (.br n z p off9) := by
  have h : (0b0000#4 ++ flagBit n ++ flagBit z ++ flagBit p ++ off9) &&& (0xF#4 ++ 0#1 ++ 0#1 ++ 0#1 ++ 0#9)
      = 0x0#4 ++ 0#1 ++ 0#1 ++ 0#1 ++ 0#9 := by
    rw [BitVec.and_append, BitVec.and_append, BitVec.and_append, BitVec.and_append]; simp
  exact h

theorem jmp (base : Reg) : Statement (.jmp base) := by
  have h : (0b1100#4 ++ 0b000#3 ++ regBits base ++ 0b000000#6) &&& (0xF#4 ++ 7#3 ++ 0#3 ++ 63#6)
      = 0xC#4 ++ 0#3 ++ 0#3 ++ 0#6 := by
    rw [BitVec.and_append, BitVec.and_append, BitVec.and_append]; simp
  exact h

theorem jsr (off11 : BitVec 11) : Statement (.jsr off11) := by
  have h : (0b0100#4 ++ 0b1#1 ++ off11) &&& (0xF#4 ++ 1#1 ++ 0#11) = 0x4#4 ++ 1#1 ++ 0#11 := by
    rw [BitVec.and_append, BitVec.and_append]; simp
  exact h

theorem jsrr (base : Reg) : Statement (.jsrr base) := by
  have h : (0b0100#4 ++ 0b000#3 ++ regBits base ++ 0b000000#6) &&& (0xF#4 ++ 7#3 ++ 0#3 ++ 63#6)
      = 0x4#4 ++ 0#3 ++ 0#3 ++ 0#6 := by
    rw [BitVec.and_append, BitVec.and_append, BitVec.and_append]; simp
  exact h

theorem rti (low : BitVec 12) : Statement (.rti low) := opcode_12 0x8 low

theorem reserved (low : BitVec 12) : Statement (.reserved low) := opcode_12 0xD low

theorem trap (vect : BitVec 8) : Statement (.trap vect) := by
  have h : (0b11110000#8 ++ vect) &&& (0xFF#8 ++ 0#8) = 0xF0#8 ++ 0#8 := by
    rw [BitVec.and_append]; simp
  exact h

theorem trapGetc : Statement .trapGetc := rfl

theorem trapOut : Statement .trapOut := rfl

theorem trapPuts : Statement .trapPuts := rfl

theorem trapIn : Statement .trapIn := rfl

theorem trapPutsp : Statement .trapPutsp := rfl

theorem trapHalt : Statement .trapHalt := rfl

end Sys2Proof.Laws.TableRow
end

