-- ==== Sys2Proof/Tests/Slice0.lean ====
section
/-! SUPPORT. The model's own tests. Expected values come from spec/: the words are written out from the formats of R71, the
results are the vectors of 95_test_vectors.md, named in each comment. After them, one witness for the hypotheses of every
statement that has some. -/

namespace Sys2Proof.Tests

open Sys2Proof.Machine

/-! ## Well-formedness: the one check, and an ill-formed term it refuses -/

theorem test_trap_service_code_ill_formed : (Instr.trap 0x20#8).wellFormed = false ∧ (Instr.trap 0x25#8).wellFormed = false := by
  decide

theorem test_trap_other_code_well_formed : (Instr.trap 0x1F#8).wellFormed = true ∧ (Instr.trap 0x26#8).wellFormed = true := by
  decide

/-! ## Decoding: every constructor by a word written out from R71 -/

theorem test_decode_addReg : decode 0b0001_010_000_0_00_001#16 = .instr (.addReg 2 0 1) := by decide
theorem test_decode_addImm : decode 0b0001_001_001_1_11111#16 = .instr (.addImm 1 1 31#5) := by decide
theorem test_decode_andReg : decode 0b0101_010_000_0_00_001#16 = .instr (.andReg 2 0 1) := by decide
theorem test_decode_andImm : decode 0b0101_000_000_1_00000#16 = .instr (.andImm 0 0 0#5) := by decide
theorem test_decode_not : decode 0b1001_001_000_111111#16 = .instr (.not 1 0) := by decide
theorem test_decode_ld : decode 0b0010_001_000000010#16 = .instr (.ld 1 2#9) := by decide
theorem test_decode_ldi : decode 0b1010_000_000010011#16 = .instr (.ldi 0 19#9) := by decide
theorem test_decode_ldr : decode 0b0110_010_001_000000#16 = .instr (.ldr 2 1 0#6) := by decide
theorem test_decode_lea : decode 0b1110_000_000000010#16 = .instr (.lea 0 2#9) := by decide
theorem test_decode_st : decode 0b0011_000_000000001#16 = .instr (.st 0 1#9) := by decide
theorem test_decode_sti : decode 0b1011_010_000000101#16 = .instr (.sti 2 5#9) := by decide
theorem test_decode_str : decode 0b0111_000_001_111111#16 = .instr (.str 0 1 63#6) := by decide
theorem test_decode_br : decode 0b0000_0_0_1_111111101#16 = .instr (.br false false true 509#9) := by decide
theorem test_decode_jmp : decode 0b1100_000_111_000000#16 = .instr (.jmp 7) := by decide
theorem test_decode_jsr : decode 0b0100_1_00000000010#16 = .instr (.jsr 2#11) := by decide
theorem test_decode_jsrr : decode 0b0100_0_00_011_000000#16 = .instr (.jsrr 3) := by decide
theorem test_decode_rti : decode 0b1000_111111111111#16 = .instr (.rti 0xFFF#12) := by decide
theorem test_decode_reserved : decode 0b1101_000100100011#16 = .instr (.reserved 0x123#12) := by decide
theorem test_decode_trap : decode 0b1111_0000_00100110#16 = .instr (.trap 0x26#8) := by decide
theorem test_decode_trapGetc : decode 0b1111_0000_00100000#16 = .instr .trapGetc := by decide
theorem test_decode_trapOut : decode 0b1111_0000_00100001#16 = .instr .trapOut := by decide
theorem test_decode_trapPuts : decode 0b1111_0000_00100010#16 = .instr .trapPuts := by decide
theorem test_decode_trapIn : decode 0b1111_0000_00100011#16 = .instr .trapIn := by decide
theorem test_decode_trapPutsp : decode 0b1111_0000_00100100#16 = .instr .trapPutsp := by decide
theorem test_decode_trapHalt : decode 0b1111_0000_00100101#16 = .instr .trapHalt := by decide

/-- Vectors O10, O17, O22, J4, J5, S7, S8, T19: undefined patterns, each by its name. -/
theorem test_decode_illegal :
    decode 0x1408#16 = .illegal .add ∧ decode 0x5408#16 = .illegal .and ∧ decode 0x903E#16 = .illegal .not ∧
    decode 0xC1C1#16 = .illegal .jmp ∧ decode 0xC9C0#16 = .illegal .jmp ∧ decode 0x40C1#16 = .illegal .jsrr ∧
    decode 0x42C0#16 = .illegal .jsrr ∧ decode 0xF122#16 = .illegal .trap := by
  decide

/-- R87's words of the pseudo-instructions. -/
theorem test_pseudo_words :
    encode (Pseudo.expand .ret) = 0xC1C0#16 ∧ encode (Pseudo.expand (.branch 5#9)) = 0x0E05#16 ∧
    encode (Pseudo.expand .nop) = 0x0000#16 ∧ encode (Pseudo.expand .getc) = 0xF020#16 ∧
    encode (Pseudo.expand .out) = 0xF021#16 ∧ encode (Pseudo.expand .puts) = 0xF022#16 ∧
    encode (Pseudo.expand .inp) = 0xF023#16 ∧ encode (Pseudo.expand .putsp) = 0xF024#16 ∧
    encode (Pseudo.expand .halt) = 0xF025#16 := by
  decide

/-- P6: `LEA R2, SUB` at x3000 with SUB at x3006 has offset 5, `LEA R0, STR` at x3006 with STR at x3003 has offset -4. -/
theorem test_label_fields :
    labelField 9 0x3006#16 0x3000#16 = some 5#9 ∧ labelField 9 0x3003#16 0x3006#16 = some 508#9 ∧
    labelField 9 0x4000#16 0x3000#16 = none := by
  decide

/-! ## Steps -/

/-- A loaded, Running unit with the given word at x3000, pc there, and more cells above it. -/
def unit (w : Word) (more : Memory) : State :=
  { State.reset with loaded := true, pc := 0x3000#16, mem := (0x3000, w) :: more }

/-- The state after a step (the state itself where there is no step). -/
def after (s : State) : State :=
  match step s with
  | .next t => t
  | .fault _ => s
  | .refused _ => s

def flagsNZP (n z p : Bool) : Flags := ⟨n, z, p⟩

/-- O2: x7FFF + x0001 = x8000, N. -/
theorem test_add_overflow :
    let t := after ((unit 0x1401#16 []).setReg 0 0x7FFF#16 |>.setReg 1 0x0001#16)
    t.reg 2 = 0x8000#16 ∧ t.flags = flagsNZP true false false ∧ t.pc = 0x3001#16 := by
  decide

/-- O7: x000F + (-16) = xFFFF, N. -/
theorem test_add_smallest_immediate :
    let t := after ((unit 0x16F0#16 []).setReg 3 0x000F#16)
    t.reg 3 = 0xFFFF#16 ∧ t.flags = flagsNZP true false false := by
  decide

/-- R102's example: x00F0 & x0F0F = x0000, Z. -/
theorem test_and_zero :
    let t := after ((unit 0x5401#16 []).setReg 0 0x00F0#16 |>.setReg 1 0x0F0F#16)
    t.reg 2 = 0x0000#16 ∧ t.flags = flagsNZP false true false := by
  decide

/-- O15: x1234 & -16 = x1230. -/
theorem test_and_sign_extends : (after ((unit 0x5270#16 []).setReg 1 0x1234#16)).reg 1 = 0x1230#16 := by decide

/-- O20: ~x8000 = x7FFF, P. -/
theorem test_not :
    let t := after ((unit 0x923F#16 []).setReg 0 0x8000#16)
    t.reg 1 = 0x7FFF#16 ∧ t.flags = flagsNZP false false true := by
  decide

/-- M1. -/
theorem test_ld :
    let t := after (unit 0x2202#16 [(0x3003, 0x8001#16)])
    t.reg 1 = 0x8001#16 ∧ t.flags = flagsNZP true false false ∧ t.pc = 0x3001#16 := by
  decide

/-- L1-7: LD at x0000 with offset -2 reads xFFFF. -/
theorem test_ld_wraps :
    let s := { State.reset with loaded := true, mem := [(0x0000, 0x21FE#16), (0xFFFF, 0x8000#16)] }
    (after s).reg 0 = 0x8000#16 ∧ (after s).pc = 0x0001#16 := by
  decide

/-- M9: the pointer cell holds its own address. -/
theorem test_ldi_self : (after (unit 0xA000#16 [(0x3001, 0x3001#16)])).reg 0 = 0x3001#16 := by decide

/-- M5: LDI through a pointer to KBSR, a character waiting. -/
theorem test_ldi_keyboard_status :
    let t := after ((unit 0xA202#16 [(0x3003, 0xFE00#16)]).setInput [some 0x61#8])
    t.reg 1 = 0x8000#16 ∧ t.flags = flagsNZP true false false ∧ t.kbdrLatch = 0x0061#16 ∧ t.kbdrValid = true ∧
      t.input = [] := by
  decide

/-- M7: LDI through a pointer to KBDR, a character latched. -/
theorem test_ldi_keyboard_data :
    let t := after ((unit 0xA202#16 [(0x3003, 0xFE02#16)]).setLatch 0x0061#16 true)
    t.reg 1 = 0x0061#16 ∧ t.kbdrValid = false := by
  decide

/-- M11: DR = BaseR, offset -32. -/
theorem test_ldr_base_is_destination :
    (after ((unit 0x6260#16 [(0x4000, 0xFFFF#16)]).setReg 1 0x4020#16)).reg 1 = 0xFFFF#16 := by
  decide

/-- M14: LEA at x7FFF gives x8000, N. -/
theorem test_lea_negative :
    let t := after { State.reset with loaded := true, pc := 0x7FFF#16, mem := [(0x7FFF, 0xE200#16)] }
    t.reg 1 = 0x8000#16 ∧ t.flags = flagsNZP true false false := by
  decide

/-- M17: ST over the next word; the next fetch reads it. -/
theorem test_st_next_word :
    let t := after ((unit 0x3200#16 []).setReg 1 0xF025#16)
    t.cell 0x3001#16 = 0xF025#16 ∧ (fetch t).1 = 0xF025#16 := by
  decide

/-- M19: STI over its own pointer. -/
theorem test_sti_self :
    (after ((unit 0xB000#16 [(0x3001, 0x3001#16)]).setReg 0 0x1234#16)).cell 0x3001#16 = 0x1234#16 := by
  decide

/-- M20: STR with offset -1. -/
theorem test_str :
    (after ((unit 0x707F#16 []).setReg 0 0xABCD#16 |>.setReg 1 0x4000#16)).cell 0x3FFF#16 = 0xABCD#16 := by
  decide

/-- M22 and M25: a store to KBDR loads the latch and no cell; a store to KBSR changes nothing but pc. -/
theorem test_str_keyboard :
    (let t := after ((unit 0x7040#16 []).setReg 0 0x0041#16 |>.setReg 1 0xFE02#16)
     t.kbdrLatch = 0x0041#16 ∧ t.kbdrValid = true ∧ t.cell 0xFE02#16 = 0x0000#16) ∧
    (let s := (unit 0x7040#16 []).setReg 0 0x1234#16 |>.setReg 1 0xFE00#16
     after s = s.setPc 0x3001#16) := by
  decide

/-- B1 and B2. -/
theorem test_br :
    (after ((unit 0x03FD#16 []).setFlags (flagsNZP false false true))).pc = 0x2FFE#16 ∧
    (after ((unit 0x03FD#16 []).setFlags (flagsNZP false true false))).pc = 0x3001#16 := by
  decide

/-- B3: no branch is taken before the first flag write. -/
theorem test_br_no_flag : (after (unit 0x0E05#16 [])).pc = 0x3001#16 := by decide

/-- J2. -/
theorem test_ret : (after ((unit 0xC1C0#16 []).setReg 7 0x3002#16)).pc = 0x3002#16 := by decide

/-- S4: JSR with the smallest offset. -/
theorem test_jsr :
    let t := after (unit 0x4C00#16 [])
    t.reg 7 = 0x3001#16 ∧ t.pc = 0x2C01#16 := by
  decide

/-- S6: JSRR R7 jumps to the old R7. -/
theorem test_jsrr_r7 :
    let t := after ((unit 0x41C0#16 []).setReg 7 0x5000#16)
    t.pc = 0x5000#16 ∧ t.reg 7 = 0x3001#16 := by
  decide

/-- X2. -/
theorem test_rti :
    let t := after (unit 0x8FFF#16 [])
    t.runState = .faulted ⟨.rtiUnsupported, 0x3000#16, 0x8FFF#16⟩ ∧ t.pc = 0x3001#16 := by
  decide

/-- X3's word, at x3000. -/
theorem test_reserved : (after (unit 0xD123#16 [])).runState = .faulted ⟨.reservedOpcode, 0x3000#16, 0xD123#16⟩ := by decide

/-- O10. -/
theorem test_illegal :
    let t := after ((unit 0x1408#16 []).setReg 2 0x1111#16)
    t.runState = .faulted ⟨.illegalOperand, 0x3000#16, 0x1408#16⟩ ∧ t.pc = 0x3001#16 ∧ t.reg 2 = 0x1111#16 := by
  decide

/-- T15 and T20: an undefined code, and a wrong fixed field with an undefined code. -/
theorem test_trap_undefined :
    (after (unit 0xF026#16 [])).runState = .faulted ⟨.undefinedTrap, 0x3000#16, 0xF026#16⟩ ∧
    (after (unit 0xF126#16 [])).runState = .faulted ⟨.illegalOperand, 0x3000#16, 0xF126#16⟩ := by
  decide

/-- T1: GETC with 'A' waiting, whatever the link parameter is. -/
theorem test_getc :
    let t := after ((unit 0xF020#16 []).setInput [some 0x41#8])
    t.reg 0 = 0x0041#16 ∧ t.out = [] ∧ t.pc = 0x3001#16 := by
  have h : after ((unit 0xF020#16 []).setInput [some 0x41#8]) =
      finishService (((unit 0xF020#16 []).setPc 0x3001#16).setReg 0 0x0041#16) := by
    simp [after, step, unit, fetch, memRead, kbsrAddr, kbdrAddr, State.cell, Memory.get, test_decode_trapGetc, exec,
      execTrapGetc, serviceGetc, waitChar, poll, State.setInput, State.setPc, zext8, State.reset]
  intro t
  have ht : t = _ := h
  rw [ht]
  simp [finishService_reg, unit, State.reset]

/-- T4: OUT emits the low byte of x1241. -/
theorem test_out : (serviceOut (State.reset.setReg 0 0x1241#16)).out = [0x41#8] := by
  simp only [serviceOut, finishService_out]; decide

/-- T8: PUTS does not stop at a word whose low byte is x00. -/
theorem test_puts :
    (servicePuts ({ State.reset with mem := [(0x4000, 0x0100#16), (0x4001, 0x0041#16)] }.setReg 0 0x4000#16)).out =
      [0x00#8, 0x41#8] := by
  have h : ∀ s : State, walkString putsBytes .puts stringFuel (s.reg 0) s = servicePuts s := fun _ => rfl
  rw [← h]
  rw [show stringFuel = 65533 + 1 + 1 + 1 from rfl, walkString_word (by decide), walkString_word (by decide),
    walkString_end (by decide), finishService_out]
  decide

/-- T11: PUTSP emits the low byte first, and one byte for a word with high byte x00. -/
theorem test_putsp :
    (servicePutsp ({ State.reset with mem := [(0x4000, 0x4B4F#16), (0x4001, 0x0021#16)] }.setReg 0 0x4000#16)).out =
      [0x4F#8, 0x4B#8, 0x21#8] := by
  have h : ∀ s : State, walkString putspBytes .putsp stringFuel (s.reg 0) s = servicePutsp s := fun _ => rfl
  rw [← h]
  rw [show stringFuel = 65533 + 1 + 1 + 1 from rfl, walkString_word (by decide), walkString_word (by decide),
    walkString_end (by decide), finishService_out]
  decide

/-- T9: IN emits the prompt and the echo. -/
theorem test_in : (serviceIn (State.reset.setInput [some 0x78#8])).out = Config.inPrompt ++ [0x78#8] := by
  simp [serviceIn, waitChar, poll, State.reset, State.setInput, State.emit]

/-- T14: HALT. -/
theorem test_halt :
    (serviceHalt State.reset).runState = .halted .haltTrap ∧ (serviceHalt State.reset).out = Config.haltNotice := by
  simp [serviceHalt, State.reset]

/-- T3: the stop request during a GETC wait. -/
theorem test_getc_interrupted :
    let s := { unit 0#16 [] with service := some .getc, stopPending := true }
    after s = { s with service := none, runState := .halted .interrupted } := by
  decide

/-- E1: the stop request wins at a fetch boundary and nothing is fetched. -/
theorem test_stop_wins :
    let s := (unit 0xF025#16 []).requestStop
    after s = { s with runState := .halted .interrupted } := by
  decide

/-- E2: fetching from KBSR with a character waiting. -/
theorem test_fetch_keyboard_status :
    let t := after { State.reset with loaded := true, pc := 0xFE00#16, input := [some 0x61#8] }
    t.runState = .faulted ⟨.rtiUnsupported, 0xFE00#16, 0x8000#16⟩ ∧ t.pc = 0xFE01#16 ∧ t.kbdrLatch = 0x0061#16 := by
  decide

/-- E4: fetching from KBDR consumes the latch. -/
theorem test_fetch_keyboard_data :
    let s := { State.reset with loaded := true, pc := 0xFE02#16, kbdrLatch := 0x1401#16, kbdrValid := true }
    let t := after (s.setReg 0 0x0001#16 |>.setReg 1 0x0002#16)
    t.reg 2 = 0x0003#16 ∧ t.kbdrValid = false ∧ t.pc = 0xFE03#16 := by
  decide

/-- E5: no step after the end. -/
theorem test_no_step_when_halted : step ((unit 0x1401#16 []).setRun (.halted .haltTrap)) = .fault .runEnded := rfl

/-- I1, I5, I7: well-formed images. -/
theorem test_launch :
    launch [0x30#8, 0x00#8, 0xE0#8, 0x02#8] =
      .ok { State.reset with mem := [(0x3000, 0xE002#16)], pc := 0x3000#16, loaded := true } ∧
    launch [0xFF#8, 0xFF#8, 0xF0#8, 0x25#8] =
      .ok { State.reset with mem := [(0xFFFF, 0xF025#16)], pc := 0xFFFF#16, loaded := true } ∧
    launch [0xFE#8, 0x00#8, 0x12#8, 0x34#8] =
      .ok { State.reset with mem := [(0xFE00, 0x1234#16)], pc := 0xFE00#16, loaded := true } :=
  ⟨rfl, rfl, rfl⟩

/-- I2, I3, I4, I6: malformed images. -/
theorem test_launch_refused :
    launch [] = .error .tooShort ∧ launch [0x30#8, 0x00#8] = .error .tooShort ∧
    launch [0x30#8, 0x00#8, 0xE0#8] = .error .oddLength ∧
    launch [0xFF#8, 0xFF#8, 0xF0#8, 0x25#8, 0xF0#8, 0x25#8] = .error .pastTop :=
  ⟨rfl, rfl, rfl, rfl⟩

/-- A word placed where the next step fetches it is the first instruction after reset. -/
theorem test_withFetchWord :
    (after (State.reset.withFetchWord 16 0x923F)).reg 1 = 0xFFFF#16 ∧ decodeTableWord 16 0x923F = some (.not 1 0) ∧
    decodeTableWord 16 0x1408 = none := by
  decide

/-- The text of R86's and the vectors' examples. -/
theorem test_text :
    instrText (.addImm 1 1 31#5) = "ADD R1, R1, #-1" ∧ instrText (.br false false true 509#9) = "BRp #-3" ∧
    instrText .trapHalt = "TRAP x25" ∧ instrText (.br false false false 0#9) = "NOP" ∧ instrText (.str 0 1 63#6) = "STR R0, R1, #-1" := by
  decide

/-- R87's directives. -/
theorem test_directives :
    Directive.words (.stringz [0x4F#8, 0x4B#8]) = [0x004F#16, 0x004B#16, 0x0000#16] ∧
    Directive.words (.blkw 2) = [0x0000#16, 0x0000#16] ∧ Directive.words (.fill 0xD0AD#16) = [0xD0AD#16] := by
  decide

/-! ## Witnesses: each statement's hypotheses are met, every clause at its boundary -/

theorem witness_DecodeOfEncode : (Instr.trap 0x1F#8).wellFormed = true ∧ (Instr.trap 0x26#8).wellFormed = true := by decide

theorem witness_EncodeOfDecode : decode 0x1401#16 = .instr (.addReg 2 0 1) := by decide

theorem witness_AddressSumsWrap :
    (memRead 0x3000#16 (unit 0x1401#16 [])).1 ≠ 0#16 ∧ (unit 0x1401#16 []).runState = .running ∧
    (∀ low, Instr.ld 0 1#9 ≠ .rti low) ∧ (∀ low, Instr.ld 0 1#9 ≠ .reserved low) ∧ (∀ v, Instr.ld 0 1#9 ≠ .trap v) :=
  ⟨by decide, rfl, fun _ => nofun, fun _ => nofun, fun _ => nofun⟩

/-- pc at xFE00 with offset 0: a character waiting, and a timeout. -/
theorem witness_LoadFromKeyboardStatus :
    let s := { State.reset with pc := 0xFE00#16, input := [some 0x61#8] }
    let r := { State.reset with pc := 0xFE00#16, input := [none] }
    s.input = some 0x61#8 :: [] ∧ State.reset.input = [] ∧ pcRelative 0#9 s = 0xFE00#16 ∧ (poll s).1 = some 0x61#8 ∧ pcRelative 0#9 r = 0xFE00#16 ∧ (poll r).1 = none := by
  decide

theorem witness_LoadFromKeyboardData :
    let s := { State.reset with pc := 0xFE02#16 }
    pcRelative 0#9 s = 0xFE02#16 ∧ s.kbdrValid = false ∧ pcRelative 0#9 (s.setLatch 0x61#16 true) = 0xFE02#16 := by
  decide

/-- The clauses of `Stored` for ST, at xFE01 (ordinary, canonical memory), KBDR and KBSR. -/
theorem witness_StoreResult :
    isKeyboard (pcRelative 1#9 (State.reset.setPc 0xFE00#16)) = false ∧ Memory.wf State.reset.mem = true ∧
    pcRelative 2#9 (State.reset.setPc 0xFE00#16) = kbdrAddr ∧ pcRelative 0#9 (State.reset.setPc 0xFE00#16) = kbsrAddr := by
  decide

/-- The same for STI: the pointer at x3003 names an ordinary cell, KBDR or KBSR. -/
theorem witness_StoreIndirectResult :
    (memRead (pcRelative 2#9 ((unit 0#16 [(0x3003, 0x4000#16)]).setPc 0x3001#16))
      ((unit 0#16 [(0x3003, 0x4000#16)]).setPc 0x3001#16)).1 = 0x4000#16 ∧
    (memRead (pcRelative 2#9 ((unit 0#16 [(0x3003, 0xFE02#16)]).setPc 0x3001#16))
      ((unit 0#16 [(0x3003, 0xFE02#16)]).setPc 0x3001#16)).1 = kbdrAddr ∧
    (memRead (pcRelative 2#9 ((unit 0#16 [(0x3003, 0xFE00#16)]).setPc 0x3001#16))
      ((unit 0#16 [(0x3003, 0xFE00#16)]).setPc 0x3001#16)).1 = kbsrAddr := by
  decide

/-- The same for STR. -/
theorem witness_StoreBaseResult :
    isKeyboard (baseOffset 1 63#6 (State.reset.setReg 1 0x4000#16)) = false ∧
    baseOffset 1 0#6 (State.reset.setReg 1 0xFE02#16) = kbdrAddr ∧
    baseOffset 1 0#6 (State.reset.setReg 1 0xFE00#16) = kbsrAddr := by
  decide

/-- ST, STI and STR, each storing at pc. -/
theorem witness_StoredWordIsFetchedNext :
    let s := (unit 0x3200#16 [(0x4000, 0x3000#16)]).setReg 1 0x3001#16
    Memory.wf s.mem = true ∧ isKeyboard s.pc = false ∧ baseOffset 1 63#6 s = s.pc ∧
    (let u := s.setPc 0xFFFF#16
     let r := u.setCell 0x0000#16 0xFFFF#16
     isKeyboard r.pc = false ∧ Memory.wf r.mem = true ∧ (memRead (pcRelative 1#9 r) r).1 = r.pc) := by
  decide

/-- A taken branch for each flag, and one not taken. -/
theorem witness_BranchResult :
    (State.reset.setFlags (flagsNZP true false false)).flags.n = true ∧
    (State.reset.setFlags (flagsNZP false true false)).flags.z = true ∧
    (State.reset.setFlags (flagsNZP false false true)).flags.p = true ∧
    State.reset.flags = flagsNZP false false false := by
  decide

theorem witness_ReturnUndoesCall :
    ((∃ off11, Instr.jsr 2#11 = .jsr off11) ∨ (∃ base, Instr.jsr 2#11 = .jsrr base)) ∧
    ((∃ off11, Instr.jsrr 7 = .jsr off11) ∨ (∃ base, Instr.jsrr 7 = .jsrr base)) :=
  ⟨.inl ⟨_, rfl⟩, .inr ⟨_, rfl⟩⟩

/-- The codes next to the services, and the extremes. -/
theorem witness_TrapDispatchesOnItsCode :
    (0x1F#8).toNat < 0x20 ∧ 0x25 < (0x26#8).toNat ∧ (0x00#8).toNat < 0x20 ∧ 0x25 < (0xFF#8).toNat := by
  decide

/-- GETC and IN: not stopped, a character at hand. -/
theorem witness_GetcReadsCharacter :
    (State.reset.setInput [some 0x41#8]).stopPending = false ∧
    (poll (State.reset.setInput [some 0x41#8])).1 = some 0x41#8 := by
  decide

/-- The same, the character being the first of two offered answers. -/
theorem witness_GetcReadsCharacter_offered :
    (State.reset.setInput [some 0x41#8, none]).stopPending = false ∧
    (State.reset.setInput [some 0x41#8, none]).input = some 0x41#8 :: [none] :=
  ⟨rfl, rfl⟩

theorem witness_InReadsCharacter :
    (State.reset.setInput [some 0xFF#8]).stopPending = false ∧
    (poll (State.reset.setInput [some 0xFF#8])).1 = some 0xFF#8 := by
  decide

/-- "OK" at x4000, packed one character and two characters a word. -/
def withString (ws : List Word) : State :=
  { State.reset with mem := Memory.setAll [] 0x4000 ws }.setReg 0 0x4000#16

theorem witness_PutsEmitsString : StringAt ((withString [0x4F#16, 0x4B#16]).reg 0) [0x4F#16, 0x4B#16] (withString [0x4F#16, 0x4B#16]) := by
  refine ⟨by decide, ?_, by decide, by decide⟩
  intro k h
  match k, h with
  | 0, h => decide +revert
  | 1, h => decide +revert

/-- The empty string. -/
theorem witness_PutsEmitsString_empty : StringAt ((withString []).reg 0) [] (withString []) :=
  ⟨by decide, fun k h => absurd h (Nat.not_lt_zero k), by decide, by decide⟩

theorem witness_PutspEmitsString : StringAt ((withString [0x4B4F#16]).reg 0) [0x4B4F#16] (withString [0x4B4F#16]) := by
  refine ⟨by decide, ?_, by decide, by decide⟩
  intro k h
  match k, h with
  | 0, h => decide +revert

/-- A string that begins in the cell below KBSR, goes on with what a read of KBSR gives and ends at the cell above: with a character
waiting it has two words, with a timeout one. -/
theorem witness_PutsEmitsString_keyboard :
    let s := { State.reset with mem := [(0xFDFF, 0x0041#16)], input := [some 0x61#8] }.setReg 0 0xFDFF#16
    let u := { State.reset with mem := [(0xFDFF, 0x0041#16)], input := [none] }.setReg 0 0xFDFF#16
    StringReads (s.reg 0) [0x0041#16, 0x8000#16] s (memRead 0xFE00#16 s).2 ∧
    StringReads (u.reg 0) [0x0041#16] u (memRead 0xFE00#16 u).2 :=
  ⟨⟨by decide, rfl, by decide, rfl, rfl⟩, ⟨by decide, rfl, rfl⟩⟩

theorem witness_TimeoutLeavesServiceWaiting :
    (State.reset.setInput [none]).stopPending = false ∧ (poll (State.reset.setInput [none])).1 = none := by
  decide

theorem witness_WaitGoesOnInTheNextStep :
    let s := (unit 0#16 []).setInput [some 0x41#8]
    s.loaded = true ∧ s.runState = .running ∧ (s.setService (some .getc)).service = some .getc ∧
    (s.setService (some .inp)).service = some .inp ∧ s.stopPending = false ∧
    (poll (s.setService (some .inp))).1 = some 0x41#8 ∧
    (poll ((s.setService (some .inp)).setInput [none])).1 = none := by
  decide

/-- A paused PUTS and PUTSP, and a walk cut after one word of a longer string. -/
theorem witness_PausedStringGoesOn :
    (unit 0#16 []).runState = .running ∧ (unit 0#16 []).loaded = true ∧
    ((unit 0#16 []).setService (some (.puts 0x4000#16))).service = some (.puts 0x4000#16) ∧
    ((unit 0#16 []).setService (some (.putsp 0x4000#16))).service = some (.putsp 0x4000#16) ∧
    (walkString putsBytes .puts 1 0x4000#16 (withString [0x4F#16, 0x4B#16])).service = some (.puts 0x4001#16) ∧
    (walkString putspBytes .putsp 1 0x4000#16 (withString [0x4F#16, 0x4B#16])).service = some (.putsp 0x4001#16) := by
  decide

/-- A fetch from an ordinary cell, from KBSR and from KBDR. -/
theorem witness_StepRunsDecodedInstruction :
    let s := unit 0x1401#16 []
    let k := { s with pc := 0xFE02#16, kbdrLatch := 0x1401#16, kbdrValid := true }
    s.runState = .running ∧ s.loaded = true ∧ s.service = none ∧ s.stopPending = false ∧ isKeyboard s.pc = false ∧
      decode (fetch s).1 = .instr (.addReg 2 0 1) ∧ decode (fetch k).1 = .instr (.addReg 2 0 1) ∧
      (s.setPc 0xFE00#16).pc = 0xFE00#16 := by
  decide

theorem witness_StepFaultsOnUndefinedPattern :
    let s := unit 0xC9C0#16 []
    (s.runState = .running ∧ s.loaded = true ∧ s.service = none ∧ s.stopPending = false ∧ isKeyboard s.pc = false) ∧
      undefinedPattern .jmp (s.cell s.pc) ∧ undefinedPattern .jmp (fetch s).1 := by
  refine ⟨by decide, ?_⟩
  unfold undefinedPattern
  decide

/-- Both answers of the poll a fetch from KBSR makes. -/
theorem witness_FetchFromKeyboardStatus :
    let s := { State.reset with loaded := true, pc := 0xFE00#16, input := [some 0x61#8] }
    let r := { State.reset with loaded := true, pc := 0xFE00#16, input := [none] }
    s.runState = .running ∧ s.loaded = true ∧ s.service = none ∧ s.stopPending = false ∧ (poll s).1 = some 0x61#8 ∧
      r.runState = .running ∧ r.loaded = true ∧ r.service = none ∧ r.stopPending = false ∧ (poll r).1 = none := by
  decide

/-- A step that faults, and one that does not. -/
theorem witness_FaultsArePrecise :
    (unit 0xD123#16 []).service = none ∧ (unit 0xD123#16 []).stopPending = false ∧
    step (unit 0xD123#16 []) = .next (after (unit 0xD123#16 [])) ∧
    faultCauseOf (fetch (unit 0xD123#16 [])).1 = some .reservedOpcode ∧
    step (unit 0x1401#16 []) = .next (after (unit 0x1401#16 [])) ∧ faultCauseOf (fetch (unit 0x1401#16 [])).1 = none :=
  ⟨rfl, rfl, rfl, by decide, rfl, by decide⟩

theorem witness_RunningUnitSteps : (unit 0x1401#16 []).runState = .running ∧ (unit 0x1401#16 []).loaded = true := by decide

theorem witness_NoStepAfterTheEnd :
    (State.reset.setRun (.halted .interrupted)).runState ≠ .running ∧
    (State.reset.setRun (.faulted ⟨.rtiUnsupported, 0#16, 0x8000#16⟩)).runState ≠ .running := by
  decide

/-- Stopped at a fetch boundary, in each wait, and while a string is being emitted; and a step to keep the request. -/
theorem witness_StopRequestIsHonoured :
    let s := (unit 0xF025#16 []).requestStop
    s.runState = .running ∧ s.loaded = true ∧ s.stopPending = true ∧ s.service = none ∧
    (s.setService (some .getc)).service = some .getc ∧ (s.setService (some .inp)).service = some .inp ∧
    (s.setService (some (.puts 0x4000#16))).service = some (.puts 0x4000#16) ∧
    (s.setService (some (.putsp 0x4000#16))).service = some (.putsp 0x4000#16) ∧
    step s = .next (after s) :=
  ⟨rfl, rfl, rfl, rfl, rfl, rfl, rfl, rfl, rfl⟩

theorem witness_FlagsUntouchedByTheRest :
    writesFlags (.jsr 2#11) = false ∧ exec (.jsr 2#11) State.reset = .next ((State.reset.setReg 7 0#16).setPc 2#16) ∧
    execIllegal .add 0x1408#16 State.reset = .next (raiseFault .illegalOperand 0x1408#16 State.reset) :=
  ⟨rfl, rfl, rfl⟩

theorem witness_FlagWritersSetExactlyOne : writesFlags (.lea 0 0#9) = true := rfl

theorem witness_RegistersWrittenAsListed :
    exec (.jmp 3) State.reset = .next (State.reset.setPc 0#16) ∧ (3 : Reg) ∉ writtenRegs (.jmp 3) :=
  ⟨rfl, by simp [writtenRegs]⟩

theorem witness_OnlyStoresWriteMemory :
    isStore (.jmp 3) = false ∧ exec (.jmp 3) State.reset = .next (State.reset.setPc 0#16) ∧
    execIllegal .not 0x9000#16 State.reset = .next (raiseFault .illegalOperand 0x9000#16 State.reset) :=
  ⟨rfl, rfl, rfl⟩

theorem witness_OutputOnlyGrows :
    step (unit 0x1401#16 []) = .next (after (unit 0x1401#16 [])) ∧ mayEmit (.jmp 3) = false ∧
    exec (.jmp 3) State.reset = .next (State.reset.setPc 0#16) :=
  ⟨rfl, rfl, rfl⟩

/-- A state with the invariant that steps into a fault, so that every part of the invariant is at work. -/
theorem witness_StepKeepsInvariant :
    (unit 0xD123#16 []).Inv ∧ step (unit 0xD123#16 []) = .next (after (unit 0xD123#16 [])) :=
  ⟨⟨rfl, rfl, fun _ => rfl, fun r h => by cases h⟩, rfl⟩

theorem witness_ReachableStatesAreSound :
    Reachable { State.reset with mem := [(0x3000, 0xE002#16)], pc := 0x3000#16, loaded := true } :=
  Reachable.launch test_launch.1

theorem witness_UnwrittenStateReadsZero :
    State.reset.mem = State.reset.mem ∧ isKeyboard 0xFE01#16 = false ∧ 0xFE01#16 ≠ 0xFE00#16 ∧ 0xFE01#16 ≠ 0xFE02#16 := by
  decide

theorem witness_NoStepBeforeTheLoad : State.reset.runState = .running ∧ State.reset.loaded = false := ⟨rfl, rfl⟩

/-- A one-word image that ends exactly at the top of memory. -/
theorem witness_LaunchLoadsTheImage :
    let b := [0xFF#8, 0xFF#8, 0xF0#8, 0x25#8]
    b.length % 2 = 0 ∧ 4 ≤ b.length ∧ imageWord b 0 = 0xFFFF ∧ imageWord b 1 = 0xF025 ∧
      imageWord b 0 + (b.length / 2 - 1) ≤ 65536 := by
  decide

theorem witness_LabelOperandReachesLabel :
    (State.reset.setPc 0x3001#16).pc = 0x3000#16 + 1#16 ∧ labelField 9 0x3006#16 0x3000#16 = some 5#9 ∧
    labelField 11 0x3400#16 0x3000#16 = some 1023#11 := by
  decide

/-- The ends of both ranges; the 9-bit ones wrap. -/
theorem witness_LabelOperandReachesLabel_range :
    WrapsTo (0x0000#16 + 1#16) (-256) 0xFF01#16 ∧ WrapsTo (0xFFFF#16 + 1#16) 255 0x00FF#16 ∧
    WrapsTo (0x3000#16 + 1#16) (-1024) 0x2C01#16 ∧ WrapsTo (0x3000#16 + 1#16) 1023 0x3400#16 := by
  unfold WrapsTo; decide

end Sys2Proof.Tests
end

section
/-! # The state family (10_state.md): frames, flags, registers, the invariant, the launch

What an instruction can do to the state is said once, in `ExecEffect`; the statements about flags, registers and the
invariant are read off its few cases. -/

namespace Sys2Proof.Machine

/-! ## Fault entry, the stop, the waits: what each leaves alone -/

@[simp] theorem raiseFault_regs (c : FaultCause) (ir : Word) (s : State) : (raiseFault c ir s).regs = s.regs := rfl
@[simp] theorem raiseFault_flags (c : FaultCause) (ir : Word) (s : State) : (raiseFault c ir s).flags = s.flags := rfl
@[simp] theorem interrupt_regs (s : State) : (interrupt s).regs = s.regs := rfl
@[simp] theorem interrupt_flags (s : State) : (interrupt s).flags = s.flags := rfl

/-- An undefined pattern faults ILLEGAL_OPERAND, whatever the operation (R215). -/
theorem execIllegal_eq (op : IllegalOp) (ir : Word) (s : State) :
    execIllegal op ir s = .next (raiseFault .illegalOperand ir s) := by
  cases op <;> rfl

/-- Emitting nothing changes nothing. -/
@[simp] theorem State.emit_nil (s : State) : s.emit [] = s := by simp [State.emit]

/-- The three ways a wait ends its step (R183, R191). -/
theorem waitChar_cases (svc : Service) (echo : Bool) (s : State) :
    waitChar svc echo s = interrupt s ∨
      (∃ c bs, waitChar svc echo s = finishService (((poll s).2.emit bs).setReg 0 (zext8 c))) ∨
      waitChar svc echo s = (poll s).2.setService (some svc) := by
  cases hstop : s.stopPending with
  | true => exact .inl (waitChar_stopped hstop svc echo)
  | false =>
    rcases hpoll : poll s with ⟨_ | c, s1⟩
    · exact .inr (.inr (waitChar_timeout hstop hpoll svc echo))
    · refine .inr (.inl ⟨c, if echo then [c] else [], ?_⟩)
      rw [waitChar_char hstop hpoll]
      cases echo <;> simp

@[simp] theorem waitChar_flags (svc : Service) (echo : Bool) (s : State) : (waitChar svc echo s).flags = s.flags := by
  obtain h | ⟨c, bs, h⟩ | h := waitChar_cases svc echo s <;> simp [h]

@[simp] theorem resumeService_flags (svc : Service) (s : State) : (resumeService svc s).flags = s.flags := by
  cases svc <;> simp [resumeService]

/-! ## Registers outside a service's row -/

/-- The end of a service leaves every register alone that is not the link. -/
theorem finishService_reg_ne {q : Reg} (hlink : Config.trapWritesR7 = true → q ≠ 7) (s : State) :
    (finishService s).reg q = s.reg q := by
  rw [finishService_reg, if_neg fun h => hlink h.1 h.2]

/-- GETC and IN write R0 and the link only. -/
theorem waitChar_reg_ne {q : Reg} (h0 : q ≠ 0) (hlink : Config.trapWritesR7 = true → q ≠ 7) (svc : Service)
    (echo : Bool) (s : State) : (waitChar svc echo s).reg q = s.reg q := by
  obtain h | ⟨c, bs, h⟩ | h := waitChar_cases svc echo s
  · exact h ▸ rfl
  · rw [h, finishService_reg_ne hlink, State.reg_setReg_ne _ h0]
    exact State.reg_congr (by simp) q
  · exact State.reg_congr (by simp [h]) q

/-- The walk of PUTS and PUTSP writes the link only. -/
theorem walkString_reg_ne {q : Reg} (hlink : Config.trapWritesR7 = true → q ≠ 7) (bytes : Word → List Byte)
    (pause : Word → Service) (n : Nat) (a : Word) (s : State) : (walkString bytes pause n a s).reg q = s.reg q := by
  induction n generalizing a s with
  | zero => rfl
  | succ n ih =>
    by_cases hend : (memRead a s).1 = 0#16
    · rw [walkString_end hend, finishService_reg_ne hlink]
      exact State.reg_congr (by simp) q
    · rw [walkString_word hend, ih]
      exact State.reg_congr (by simp) q

/-! ## What an instruction can do -/

/-- `r` differs from `s` at most in the keyboard latch, the offered answers and the draws: what `MemRead` may change (R44). -/
structure SameButKeyboard (s r : State) : Prop where
  regs : r.regs = s.regs
  pc : r.pc = s.pc
  flags : r.flags = s.flags
  mem : r.mem = s.mem
  stopPending : r.stopPending = s.stopPending
  runState : r.runState = s.runState
  out : r.out = s.out
  loaded : r.loaded = s.loaded
  service : r.service = s.service

theorem SameButKeyboard.refl (s : State) : SameButKeyboard s s := by constructor <;> rfl

theorem SameButKeyboard.memRead {s r : State} (h : SameButKeyboard s r) (a : Word) :
    SameButKeyboard s (memRead a r).2 := by
  constructor <;> simp [h.regs, h.pc, h.flags, h.mem, h.stopPending, h.runState, h.out, h.loaded, h.service]

/-- Everything the execution of `i` from `s` can be: a result with its flags, a store, a jump (or no jump), a call, a
fault, or one of the four forms of a TRAP service. Each case carries the row of R21, R23 and R42 that `i` stands in. -/
inductive ExecEffect (i : Instr) (s : State) : State → Prop where
  /-- ADD, AND, NOT, LD, LDI, LDR, LEA: `r` is the state after the reads. -/
  | result (dr : Reg) (v : Word) {r : State} (hrow : writesFlags i = true) (hdr : dr ∈ writtenRegs i)
      (hr : SameButKeyboard s r) : ExecEffect i s (writeResult dr v r)
  /-- ST, STI, STR. -/
  | store (a v : Word) {r : State} (hrow : writesFlags i = false) (hr : SameButKeyboard s r) :
      ExecEffect i s (memWrite a v r)
  /-- BR and JMP; a BR not taken goes to the pc it has. -/
  | jump (target : Word) (hrow : writesFlags i = false) : ExecEffect i s (s.setPc target)
  /-- JSR and JSRR. -/
  | call (target : Word) (hrow : writesFlags i = false) (hlink : 7 ∈ writtenRegs i) :
      ExecEffect i s ((s.setReg 7 s.pc).setPc target)
  /-- RTI, the reserved opcode, TRAP with a code of its own: the word says the cause. -/
  | fault {c : FaultCause} {ir : Word} (hrow : writesFlags i = false) (hcause : faultCauseOf ir = some c) :
      ExecEffect i s (raiseFault c ir s)
  /-- GETC, and IN after its prompt. -/
  | wait (svc : Service) (echo : Bool) (prompt : List Byte) (hrow : writesFlags i = false) (h0 : 0 ∈ writtenRegs i)
      (hlink : Config.trapWritesR7 = true → 7 ∈ writtenRegs i) : ExecEffect i s (waitChar svc echo (s.emit prompt))
  /-- PUTS and PUTSP. -/
  | walk (bytes : Word → List Byte) (pause : Word → Service) (a : Word) (hrow : writesFlags i = false)
      (hlink : Config.trapWritesR7 = true → 7 ∈ writtenRegs i) :
      ExecEffect i s (walkString bytes pause stringFuel a s)
  /-- OUT. -/
  | put (bs : List Byte) (hrow : writesFlags i = false)
      (hlink : Config.trapWritesR7 = true → 7 ∈ writtenRegs i) : ExecEffect i s (finishService (s.emit bs))
  /-- HALT. -/
  | halt (notice : List Byte) (hrow : writesFlags i = false)
      (hlink : Config.trapWritesR7 = true → 7 ∈ writtenRegs i) :
      ExecEffect i s (finishService ((s.emit notice).setRun (.halted .haltTrap)))

/-! ### The words that fault -/

/-- A word whose top four bits are 1000 faults RTI_UNSUPPORTED (R82, R160). -/
theorem faultCauseOf_rti (low : BitVec 12) : faultCauseOf (encode (.rti low)) = some .rtiUnsupported := by
  have hop : opcodeOf (encode (.rti low)) = .rti :=
    opcodeOf_of_field (op := 0b1000#4) (BitVec.extractLsb'_append_eq_left)
  simp [faultCauseOf, decode, hop]

/-- A word of opcode 1101 faults RESERVED_OPCODE (R81, R161). -/
theorem faultCauseOf_reserved (low : BitVec 12) :
    faultCauseOf (encode (.reserved low)) = some .reservedOpcode := by
  have hop : opcodeOf (encode (.reserved low)) = .reserved :=
    opcodeOf_of_field (op := 0b1101#4) (BitVec.extractLsb'_append_eq_left)
  simp [faultCauseOf, decode, hop]

/-- A TRAP word whose code is no service's faults UNDEFINED_TRAP (R189). -/
theorem faultCauseOf_trap {v : BitVec 8} (hv : isServiceCode v = false) :
    faultCauseOf (encode (.trap v)) = some .undefinedTrap := by
  have hval : (encode (.trap v)).toNat = 0xF0 * 256 + v.toNat := toNat_8_8 0xF0#8 v
  have hlt := v.isLt
  have hop : opcodeOf (encode (.trap v)) = .trap :=
    opcodeOf_of_field (op := 0b1111#4) ((field_eq_iff _ _ _ _).2 (by simp [hval]; omega))
  have hfix : (encode (.trap v)).extractLsb' 8 4 = 0#4 := (field_eq_iff _ _ _ _).2 (by simp [hval]; omega)
  have hcode : (encode (.trap v)).extractLsb' 0 8 = v := (field_eq_iff _ _ _ _).2 (by simp [hval]; omega)
  simp [faultCauseOf, decode, hop, hfix, hcode, decodeTrap_other hv]

/-! ### Every instruction has one of the effects -/

theorem ExecEffect.getc {i : Instr} {s : State} (hrow : writesFlags i = false) (h0 : 0 ∈ writtenRegs i)
    (hlink : Config.trapWritesR7 = true → 7 ∈ writtenRegs i) : ExecEffect i s (serviceGetc s) := by
  simpa [serviceGetc] using ExecEffect.wait (s := s) .getc false [] hrow h0 hlink

/-- A code that is none of the six is no service's. -/
theorem isServiceCode_false {v : BitVec 8} (h20 : v ≠ 0x20#8) (h21 : v ≠ 0x21#8) (h22 : v ≠ 0x22#8) (h23 : v ≠ 0x23#8)
    (h24 : v ≠ 0x24#8) (h25 : v ≠ 0x25#8) : isServiceCode v = false :=
  decide_eq_false (by bv_omega)

/-- TRAP by its code: the row of `.trap v` is the row of the service `v` names, and no other code writes anything. -/
theorem execTrap_effect (v : BitVec 8) (s : State) : ∃ t, execTrap v s = .next t ∧ ExecEffect (.trap v) s t := by
  unfold execTrap
  split_ifs with h20 h21 h22 h23 h24 h25
  · subst h20
    exact ⟨_, rfl, .getc rfl (by simp [writtenRegs, isServiceCode]) fun h => by simp [writtenRegs, isServiceCode, h]⟩
  · subst h21
    exact ⟨_, rfl, .put _ rfl fun h => by simp [writtenRegs, isServiceCode, h]⟩
  · subst h22
    exact ⟨_, rfl, .walk _ _ _ rfl fun h => by simp [writtenRegs, isServiceCode, h]⟩
  · subst h23
    exact ⟨_, rfl, .wait _ _ _ rfl (by simp [writtenRegs, isServiceCode]) fun h => by
      simp [writtenRegs, isServiceCode, h]⟩
  · subst h24
    exact ⟨_, rfl, .walk _ _ _ rfl fun h => by simp [writtenRegs, isServiceCode, h]⟩
  · subst h25
    exact ⟨_, rfl, .halt _ rfl fun h => by simp [writtenRegs, isServiceCode, h]⟩
  · exact ⟨_, rfl, .fault rfl (faultCauseOf_trap (isServiceCode_false h20 h21 h22 h23 h24 h25))⟩

/-- BR jumps, to its target or to the pc it has. -/
theorem execBr_effect (n z p : Bool) (off9 : BitVec 9) (s : State) :
    ∃ t, execBr n z p off9 s = .next t ∧ ExecEffect (.br n z p off9) s t := by
  refine ⟨_, rfl, ?_⟩
  split
  · exact .jump _ rfl
  · exact .jump s.pc rfl

/-- Every instruction answers a next state, and it is one of the effects (R210). -/
theorem exec_effect (i : Instr) (s : State) : ∃ t, exec i s = .next t ∧ ExecEffect i s t := by
  have here := SameButKeyboard.refl s
  cases i with
  | addReg dr sr1 sr2 => exact ⟨_, rfl, .result dr _ rfl List.mem_cons_self here⟩
  | addImm dr sr1 imm5 => exact ⟨_, rfl, .result dr _ rfl List.mem_cons_self here⟩
  | andReg dr sr1 sr2 => exact ⟨_, rfl, .result dr _ rfl List.mem_cons_self here⟩
  | andImm dr sr1 imm5 => exact ⟨_, rfl, .result dr _ rfl List.mem_cons_self here⟩
  | not dr sr => exact ⟨_, rfl, .result dr _ rfl List.mem_cons_self here⟩
  | ld dr off9 => exact ⟨_, rfl, .result dr _ rfl List.mem_cons_self (here.memRead _)⟩
  | ldi dr off9 => exact ⟨_, rfl, .result dr _ rfl List.mem_cons_self ((here.memRead _).memRead _)⟩
  | ldr dr base off6 => exact ⟨_, rfl, .result dr _ rfl List.mem_cons_self (here.memRead _)⟩
  | lea dr off9 => exact ⟨_, rfl, .result dr _ rfl List.mem_cons_self here⟩
  | st sr off9 => exact ⟨_, rfl, .store _ _ rfl here⟩
  | sti sr off9 => exact ⟨_, rfl, .store _ _ rfl (here.memRead _)⟩
  | str sr base off6 => exact ⟨_, rfl, .store _ _ rfl here⟩
  | br n z p off9 => exact execBr_effect n z p off9 s
  | jmp base => exact ⟨_, rfl, .jump _ rfl⟩
  | jsr off11 => exact ⟨_, rfl, .call _ rfl List.mem_cons_self⟩
  | jsrr base => exact ⟨_, rfl, .call _ rfl List.mem_cons_self⟩
  | rti low => exact ⟨_, rfl, .fault rfl (faultCauseOf_rti low)⟩
  | reserved low => exact ⟨_, rfl, .fault rfl (faultCauseOf_reserved low)⟩
  | trap vect => exact execTrap_effect vect s
  | trapGetc =>
    exact ⟨_, rfl, .getc rfl (by simp only [writtenRegs]; split <;> simp) fun h => by
      simp [writtenRegs, h]⟩
  | trapOut => exact ⟨_, rfl, .put _ rfl fun h => by simp [writtenRegs, h]⟩
  | trapPuts => exact ⟨_, rfl, .walk _ _ _ rfl fun h => by simp [writtenRegs, h]⟩
  | trapIn =>
    exact ⟨_, rfl, .wait _ _ _ rfl (by simp only [writtenRegs]; split <;> simp) fun h => by
      simp [writtenRegs, h]⟩
  | trapPutsp => exact ⟨_, rfl, .walk _ _ _ rfl fun h => by simp [writtenRegs, h]⟩
  | trapHalt => exact ⟨_, rfl, .halt _ rfl fun h => by simp [writtenRegs, h]⟩

/-- The inversion of `exec`: a next state is one of the effects. -/
theorem ExecEffect.of_exec {i : Instr} {s t : State} (h : exec i s = .next t) : ExecEffect i s t := by
  obtain ⟨u, hu, heffect⟩ := exec_effect i s
  cases hu.symm.trans h
  exact heffect

/-! ## The flags -/

/-- N as the sign bit. -/
theorem signBit_iff_toInt_neg (v : Word) : v.getLsbD 15 = true ↔ v.toInt < 0 := by
  have := v.isLt
  rw [bit_eq, decide_eq_true_iff, BitVec.toInt_eq_toNat_cond]
  split <;> omega

theorem toInt_eq_zero_iff (v : Word) : v.toInt = 0 ↔ v = 0#16 := by
  rw [← BitVec.toInt_inj]; rfl

/-- The flags of a word are its sign (R24). -/
theorem flagsOfSign_ofWord (v : Word) : FlagsOfSign v (Flags.ofWord v) := by
  have hsign := signBit_iff_toInt_neg v
  have hzero := toInt_eq_zero_iff v
  refine ⟨hsign, by simp [Flags.ofWord, hzero], ?_⟩
  simp only [Flags.ofWord, Bool.and_eq_true, Bool.not_eq_true', ← Bool.not_eq_true, bne_iff_ne, ne_eq, hsign, ← hzero]
  omega

/-- The sign is one of three. -/
theorem exactlyOne_of_flagsOfSign {v : Word} {f : Flags} (h : FlagsOfSign v f) : Flags.exactlyOne f = true := by
  obtain ⟨n, z, p⟩ := f
  obtain ⟨hn, hz, hp⟩ := h
  simp only at hn hz hp
  simp only [Flags.exactlyOne, Bool.or_eq_true, Bool.and_eq_true, Bool.not_eq_true', ← Bool.not_eq_true, hn, hz, hp]
  omega

theorem exactlyOne_ofWord (v : Word) : Flags.exactlyOne (Flags.ofWord v) = true :=
  exactlyOne_of_flagsOfSign (flagsOfSign_ofWord v)

theorem exclusive_of_exactlyOne {f : Flags} (h : Flags.exactlyOne f = true) : Flags.exclusive f = true := by
  obtain ⟨n, z, p⟩ := f
  revert n z p
  decide

/-- Settles O5: the three bits are the sign of the value. -/
theorem flagsAreTheSign : Obligations.FlagsAreTheSign := by
  intro v s
  refine ⟨rfl, by simp [setcc, Flags.ofWord], by simp [setcc, Flags.ofWord], ?_, ?_⟩
  · exact flagsOfSign_ofWord v
  · exact exactlyOne_ofWord v

/-- An effect with a row outside the seven flag writers leaves the flags alone. -/
theorem ExecEffect.flags_eq {i : Instr} {s t : State} (h : ExecEffect i s t) (hi : writesFlags i = false) :
    t.flags = s.flags := by
  cases h with
  | result dr v hrow => exact absurd hrow (by simp [hi])
  | store a v hrow hr => simpa using hr.flags
  | jump | call | fault => rfl
  | wait | walk | put | halt => simp

/-- An effect of a flag writer is a result, and its flags are the word's. -/
theorem ExecEffect.flags_exactlyOne {i : Instr} {s t : State} (h : ExecEffect i s t) (hi : writesFlags i = true) :
    Flags.exactlyOne t.flags = true := by
  cases h with
  | result dr v => exact exactlyOne_ofWord v
  | store _ _ hrow | jump _ hrow | call _ hrow | fault hrow | wait _ _ _ hrow | walk _ _ _ hrow | put _ hrow
  | halt _ hrow => exact absurd hi (by simp [hrow])

/-- Settles O46: an effect outside the flag writers, an undefined pattern and a resumed service leave the flags alone. -/
theorem flagsUntouchedByTheRest : Obligations.FlagsUntouchedByTheRest := by
  refine ⟨fun i s t hi h => (ExecEffect.of_exec h).flags_eq hi, fun op ir s t h => ?_, resumeService_flags⟩
  rw [execIllegal_eq] at h
  cases h
  rfl

/-- Settles O47: the effect of a flag writer is a result. -/
theorem flagWritersSetExactlyOne : Obligations.FlagWritersSetExactlyOne := by
  intro i s hi
  obtain ⟨t, ht, heffect⟩ := exec_effect i s
  exact ⟨t, ht, heffect.flags_exactlyOne hi⟩

/-! ## The registers -/

/-- Settles O48: each effect writes the registers of its row and no other. -/
theorem registersWrittenAsListed : Obligations.RegistersWrittenAsListed := by
  intro i s t h q hq
  have hne {r : Reg} (hr : r ∈ writtenRegs i) : q ≠ r := fun e => hq (e ▸ hr)
  cases ExecEffect.of_exec h with
  | result dr v _ hdr hr => rw [writeResult_reg, if_neg (hne hdr), State.reg_congr hr.regs]
  | store a v _ hr => exact State.reg_congr (by simp [hr.regs]) q
  | jump | fault => rfl
  | call target _ hlink => exact State.reg_setReg_ne s (hne hlink) s.pc
  | wait svc echo prompt _ h0 hlink => exact waitChar_reg_ne (hne h0) (fun h7 => hne (hlink h7)) svc echo _
  | walk bytes pause a _ hlink => exact walkString_reg_ne (fun h7 => hne (hlink h7)) bytes pause _ a s
  | put bs _ hlink => exact finishService_reg_ne (fun h7 => hne (hlink h7)) _
  | halt notice _ hlink => exact finishService_reg_ne (fun h7 => hne (hlink h7)) _

/-! ## The invariant -/

/-- A Running state has the invariant if its memory is canonical and its flags exclusive. -/
theorem State.Inv.of_running {s : State} (hrun : s.runState = .running) (hmem : Memory.wf s.mem = true)
    (hflags : Flags.exclusive s.flags = true) : s.Inv where
  mem_wf := hmem
  flags_exclusive := hflags
  service_running _ := hrun
  record_true r hr := by simp [hrun] at hr

/-- A unit that goes on Running keeps the invariant with its memory and flags. -/
theorem State.Inv.keep_running {s t : State} (hs : s.Inv) (hrun : s.runState = .running)
    (ht : t.runState = s.runState) (hmem : t.mem = s.mem) (hflags : t.flags = s.flags) : t.Inv :=
  .of_running (ht.trans hrun) (hmem ▸ hs.mem_wf) (hflags ▸ hs.flags_exclusive)

/-- A Halted state has it if besides no service is in progress. -/
theorem State.Inv.of_halted {s : State} {why : HaltReason} (hhalt : s.runState = .halted why)
    (hservice : s.service = none) (hmem : Memory.wf s.mem = true) (hflags : Flags.exclusive s.flags = true) :
    s.Inv where
  mem_wf := hmem
  flags_exclusive := hflags
  service_running h := absurd hservice h
  record_true r hr := by simp [hhalt] at hr

/-- Taking a fault outside a service gives a true record, if the cause is the word's (R213, R214). -/
theorem raiseFault_inv {s : State} {c : FaultCause} {ir : Word} (hs : s.Inv) (hservice : s.service = none)
    (hcause : faultCauseOf ir = some c) : (raiseFault c ir s).Inv where
  mem_wf := hs.mem_wf
  flags_exclusive := hs.flags_exclusive
  service_running h := absurd hservice h
  record_true r hr := by
    cases hr
    exact ⟨hcause, (BitVec.sub_add_cancel s.pc 1#16).symm⟩

theorem interrupt_inv {s : State} (hs : s.Inv) : (interrupt s).Inv :=
  .of_halted rfl rfl hs.mem_wf hs.flags_exclusive

/-- A wait of a Running unit keeps the invariant. -/
theorem waitChar_inv {s : State} (hs : s.Inv) (hrun : s.runState = .running) (svc : Service) (echo : Bool) :
    (waitChar svc echo s).Inv := by
  obtain h | ⟨c, bs, h⟩ | h := waitChar_cases svc echo s <;> rw [h]
  · exact interrupt_inv hs
  · exact hs.keep_running hrun (by simp) (by simp) (by simp)
  · exact hs.keep_running hrun (by simp) (by simp) (by simp)

/-- A string walk of a Running unit keeps the invariant. -/
theorem walkString_inv {s : State} (hs : s.Inv) (hrun : s.runState = .running) (bytes : Word → List Byte)
    (pause : Word → Service) (n : Nat) (a : Word) : (walkString bytes pause n a s).Inv :=
  hs.keep_running hrun (by simp) (by simp) (by simp)

theorem resumeService_inv {s : State} (hs : s.Inv) (hrun : s.runState = .running) (svc : Service) :
    (resumeService svc s).Inv := by
  cases svc with
  | getc | inp => exact waitChar_inv hs hrun _ _
  | puts a | putsp a => exact walkString_inv hs hrun _ _ _ a

/-- The fetch of a Running unit keeps the invariant. -/
theorem fetch_inv {s : State} (hs : s.Inv) (hrun : s.runState = .running) : (fetch s).2.Inv :=
  hs.keep_running hrun (by simp) (by simp) (by simp)

/-- Every effect of an instruction keeps the invariant of a Running unit with no service in progress. -/
theorem ExecEffect.inv {i : Instr} {s t : State} (h : ExecEffect i s t) (hs : s.Inv) (hrun : s.runState = .running)
    (hservice : s.service = none) : t.Inv := by
  have hmem := hs.mem_wf
  have hflags := hs.flags_exclusive
  cases h with
  | result dr v _ _ hr =>
    exact .of_running (by simp [hr.runState, hrun]) (by simp [hr.mem, hmem])
      (exclusive_of_exactlyOne (exactlyOne_ofWord v))
  | store a v _ hr =>
    exact .of_running (by simp [hr.runState, hrun]) (memWrite_wf (by simp [hr.mem, hmem]) a v)
      (by simp [hr.flags, hflags])
  | jump | call => exact hs.keep_running hrun rfl rfl rfl
  | fault _ hcause => exact raiseFault_inv hs hservice hcause
  | wait svc echo prompt =>
    have hprompt : (s.emit prompt).Inv := hs.keep_running hrun rfl rfl rfl
    exact waitChar_inv hprompt hrun svc echo
  | walk bytes pause a => exact walkString_inv hs hrun bytes pause stringFuel a
  | put bs => exact hs.keep_running hrun (by simp) (by simp) (by simp)
  | halt notice => exact .of_halted (why := .haltTrap) (by simp) (by simp) (by simp [hmem]) (by simp [hflags])

/-- Settles O52: by the cases of a step, then by the effects of an instruction. -/
theorem stepKeepsInvariant : Obligations.StepKeepsInvariant := by
  intro s t hs hstep
  obtain ⟨hrun, -, hcase⟩ := step_cases hstep
  have hfetch := fetch_inv hs hrun
  obtain ⟨svc, -, rfl⟩ | ⟨-, -, rfl⟩ | ⟨hservice, -, i, -, hexec⟩ | ⟨hservice, -, op, hdecode, rfl⟩ := hcase
  · exact resumeService_inv hs hrun svc
  · exact interrupt_inv hs
  · exact (ExecEffect.of_exec hexec).inv hfetch (by simp [hrun]) (by simp [hservice])
  · exact raiseFault_inv hfetch (by simp [hservice]) (by simp [faultCauseOf, hdecode])

/-- Settles O53: after reset memory is empty, no flag is set and the unit is Running. -/
theorem resetHasInvariant : Obligations.ResetHasInvariant :=
  State.Inv.of_running rfl State.reset_mem_wf rfl

/-! ## Reset and load -/

theorem reset_reg (r : Reg) : State.reset.reg r = 0#16 := by
  simp [State.reg, State.reset]

theorem reset_cell (a : Word) : State.reset.cell a = 0#16 := rfl

theorem isKeyboard_eq_false_iff (a : Word) : isKeyboard a = false ↔ a ≠ 0xFE00#16 ∧ a ≠ 0xFE02#16 := by
  simp [isKeyboard, kbsrAddr, kbdrAddr]

/-- Settles O55: the reset values, and the read of an ordinary address. -/
theorem unwrittenStateReadsZero : Obligations.UnwrittenStateReadsZero := by
  refine ⟨reset_reg, reset_cell, rfl, fun a s hkbsr hkbdr => ?_, fun a s hmem ha => ?_⟩
  · exact memRead_plain ((isKeyboard_eq_false_iff a).2 ⟨hkbsr, hkbdr⟩) s
  · rw [memRead_plain ha, State.cell_congr hmem, reset_cell]

/-- A pair of bytes is the word with the first one high. -/
theorem imageWord_zero (hi lo : Byte) (rest : List Byte) :
    imageWord (hi :: lo :: rest) 0 = BitVec.toNat (w := 16) (hi ++ lo) := by
  rw [toNat_8_8]
  simp [imageWord]

/-- The words after the first are those of the remaining bytes. -/
theorem imageWord_succ (hi lo : Byte) (rest : List Byte) (k : Nat) :
    imageWord (hi :: lo :: rest) (k + 1) = imageWord rest k := rfl

/-- An even number of bytes reads as words, pair by pair, high byte first (R51, R253). -/
theorem imageWords_even (bytes : List Byte) (heven : bytes.length % 2 = 0) :
    ∃ ws, imageWords bytes = some ws ∧ ws.length = bytes.length / 2 ∧
      ∀ k : Nat, (ws.getD k 0#16).toNat = imageWord bytes k := by
  match bytes with
  | [] => exact ⟨[], rfl, rfl, fun k => by simp [imageWord]⟩
  | [b] => simp at heven
  | hi :: lo :: rest =>
    simp only [List.length_cons] at heven ⊢
    obtain ⟨ws, hws, hlen, hword⟩ := imageWords_even rest (by omega)
    refine ⟨(hi ++ lo) :: ws, by simp [imageWords, hws], by simp only [List.length_cons]; omega, fun k => ?_⟩
    cases k with
    | zero => exact (imageWord_zero hi lo rest).symm
    | succ k => rw [imageWord_succ, ← hword k]; rfl

/-- Inside a stored run, each cell holds its word. -/
theorem Memory.get_setAll_inside {ws : List Word} : ∀ {m : Memory} {a k : Nat}, Memory.wf m = true →
    a + ws.length ≤ 65536 → k < ws.length → Memory.get (Memory.setAll m a ws) (a + k) = ws.getD k 0#16 := by
  induction ws with
  | nil => intro m a k _ _ hk; simp at hk
  | cons w rest ih =>
    intro m a k hm hfit hk
    simp only [List.length_cons] at hfit hk
    cases k with
    | zero =>
      rw [Memory.setAll, Memory.get_setAll_outside (by omega)]
      exact Memory.get_set_same hm a w
    | succ k =>
      rw [Memory.setAll, show a + (k + 1) = a + 1 + k by omega,
        ih (Memory.set_wf hm (by omega) w) (by omega) (by omega)]
      rfl

/-- The state a launch gives: the reset state with the words stored from the origin on (R250, R253). -/
def launched (origin : Word) (words : List Word) : State :=
  { State.reset with mem := Memory.setAll [] origin.toNat words, pc := origin, loaded := true }

/-- Bytes that read as an origin and at least one word, up to the top of memory at most, are launched. -/
theorem launch_eq_launched {bytes : List Byte} {origin : Word} {words : List Word}
    (hbytes : imageWords bytes = some (origin :: words)) (hne : words ≠ [])
    (hfit : origin.toNat + words.length ≤ 65536) : launch bytes = .ok (launched origin words) := by
  simp only [launch, loadImage, hbytes, loadAt, if_neg hne, if_pos hfit]
  rfl

/-- A launched word stands in its cell. -/
theorem launched_cell_inside {origin : Word} {words : List Word} (hfit : origin.toNat + words.length ≤ 65536) {j : Nat}
    (hj : j < words.length) :
    (launched origin words).cell (origin + BitVec.ofNat 16 j) = words.getD j 0#16 := by
  have haddr : (origin + BitVec.ofNat 16 j).toNat = origin.toNat + j := by
    simp only [BitVec.toNat_add, BitVec.toNat_ofNat]
    omega
  rw [State.cell, haddr]
  exact Memory.get_setAll_inside State.reset_mem_wf hfit hj

/-- Every cell outside the image reads x0000. -/
theorem launched_cell_outside {origin : Word} {words : List Word} {a : Word}
    (ha : a.toNat < origin.toNat ∨ origin.toNat + words.length ≤ a.toNat) :
    (launched origin words).cell a = 0#16 :=
  Memory.get_setAll_outside ha

/-- Settles O57: the bytes read as an origin and words, and the launch stores these. -/
theorem launchLoadsTheImage : Obligations.LaunchLoadsTheImage := by
  intro bytes heven hlong hfit
  obtain ⟨ws, hws, hlen, hword⟩ := imageWords_even bytes heven
  match ws with
  | [] => simp at hlen; omega
  | origin :: words =>
    have horigin : origin.toNat = imageWord bytes 0 := hword 0
    have hwords : words.length = bytes.length / 2 - 1 := by simp at hlen; omega
    rw [← horigin, ← hwords] at hfit ⊢
    have hne : words ≠ [] := fun h => by simp [h] at hwords; omega
    refine ⟨launched origin words, launch_eq_launched hws hne hfit, rfl, rfl, rfl, fun k hk hlast => ?_,
      fun a => launched_cell_outside, reset_reg, rfl, rfl, rfl, rfl, rfl, rfl,
      Memory.setAll_wf State.reset_mem_wf hfit⟩
    calc ((launched origin words).cell (origin + BitVec.ofNat 16 (k - 1))).toNat
        = (words.getD (k - 1) 0#16).toNat := by rw [launched_cell_inside hfit (by omega)]
      _ = ((origin :: words).getD (k - 1 + 1) 0#16).toNat := rfl
      _ = imageWord bytes k := by rw [hword, Nat.sub_add_cancel hk]

end Sys2Proof.Machine
end

section
/-! # The memory family (20_memory.md): address sums, keyboard reads, fetch, and who writes memory

The cases of a step are said once each as an equation, the reads of KBSR and KBDR once for each answer; the statements
are read off these. -/

namespace Sys2Proof.Machine

/-! ## Address sums (R43) -/

/-- A sum of words is the wrapped sum of the first one and the second one read as signed. -/
theorem wrapsTo_add {a b : Word} {k : Int} (h : b.toInt = k) : WrapsTo a k (a + b) := by
  subst h
  rw [WrapsTo, BitVec.toNat_add, BitVec.toInt_eq_toNat_cond]
  split <;> omega

/-- A word plus a sign-extended field that is no wider than a word. -/
theorem wrapsTo_add_sext {k : Nat} (hk : k ≤ 16) (a : Word) (off : BitVec k) : WrapsTo a off.toInt (a + sext off) :=
  wrapsTo_add (BitVec.toInt_signExtend_of_le hk)

/-- The next address. -/
theorem wrapsTo_add_one (a : Word) : WrapsTo a 1 (a + 1#16) := wrapsTo_add rfl

/-! ## The keyboard reads (R47, R48) -/

theorem memRead_kbsr (s : State) : memRead 0xFE00#16 s = kbsrRead s := rfl

theorem memRead_kbdr (s : State) : memRead 0xFE02#16 s = kbdrRead s := rfl

/-- A character at hand: it is latched and x8000 read. -/
theorem memRead_kbsr_pending {s : State} {c : Byte} (h : (poll s).1 = some c) :
    memRead 0xFE00#16 s = (0x8000#16, (poll s).2.setLatch (zext8 c) true) := by
  rw [memRead_kbsr, kbsrRead_pending (Prod.ext h rfl)]

/-- A timeout: x0000 is read. -/
theorem memRead_kbsr_idle {s : State} (h : (poll s).1 = none) : memRead 0xFE00#16 s = (0x0000#16, (poll s).2) := by
  rw [memRead_kbsr, kbsrRead_idle (Prod.ext h rfl)]

/-- A latched word is read and is no longer valid. -/
theorem memRead_kbdr_latched {s : State} (h : s.kbdrValid = true) :
    memRead 0xFE02#16 s = (s.kbdrLatch, s.setLatch s.kbdrLatch false) := by
  simp [memRead_kbdr, kbdrRead, h]

/-- With nothing latched the word read is free. -/
theorem memRead_kbdr_stale {s : State} (h : s.kbdrValid = false) :
    memRead 0xFE02#16 s = (Config.kbdrStale s.draws, s.countDraw) := by
  simp [memRead_kbdr, kbdrRead, h]

theorem zext8_toNat (c : Byte) : (zext8 c).toNat = c.toNat := by
  have := c.isLt
  rw [zext8, BitVec.toNat_setWidth, Nat.mod_eq_of_lt (by omega)]

/-- LD by the word its read gives and the state its read leaves (R120). -/
theorem exec_ld_of_memRead {off9 : BitVec 9} {s r : State} {a v : Word} (haddr : pcRelative off9 s = a)
    (hread : memRead a s = (v, r)) (dr : Reg) : exec (.ld dr off9) s = .next (writeResult dr v r) := by
  simp [exec, execLd, loadFrom, haddr, hread]

/-- Settles O16: the two ways a poll finds its answer, then LD for each answer of the poll. -/
theorem loadFromKeyboardStatus : Obligations.LoadFromKeyboardStatus := by
  refine ⟨fun r rest s => ⟨poll_fixed, fun hnone => ⟨poll_free hnone, ?_⟩⟩, fun dr off9 s haddr => ?_⟩
  · have hoffered : (s.offerInput (r :: rest)).input = r :: rest := by simp [State.offerInput, hnone]
    exact poll_fixed hoffered
  · cases hpoll : (poll s).1 with
    | some c =>
      refine ⟨_, exec_ld_of_memRead haddr (memRead_kbsr_pending hpoll) dr, rfl, rfl, ?_⟩
      exact ⟨by simp [writeResult_reg], rfl, zext8_toNat c, rfl⟩
    | none =>
      refine ⟨_, exec_ld_of_memRead haddr (memRead_kbsr_idle hpoll) dr, rfl, rfl, ?_⟩
      exact ⟨by simp [writeResult_reg], rfl, poll_kbdrLatch s, poll_kbdrValid s⟩

/-- Settles O17: LD with a word latched, and with none. -/
theorem loadFromKeyboardData : Obligations.LoadFromKeyboardData := by
  intro dr off9 s haddr
  cases hvalid : s.kbdrValid with
  | true =>
    refine ⟨_, exec_ld_of_memRead haddr (memRead_kbdr_latched hvalid) dr, rfl, rfl, rfl, ?_⟩
    simp [writeResult_reg]
  | false =>
    refine ⟨_, exec_ld_of_memRead haddr (memRead_kbdr_stale hvalid) dr, rfl, rfl, hvalid, ?_⟩
    simp [writeResult_reg]

/-! ## A store at the pc is fetched next (R59) -/

/-- What `MemWrite` puts at an ordinary pc is what the next fetch reads. -/
theorem fetch_memWrite_pc {a : Word} {s : State} (hwf : Memory.wf s.mem = true) (hpc : isKeyboard s.pc = false)
    (ha : a = s.pc) (v : Word) : (fetch (memWrite a v s)).1 = v := by
  rw [ha, memWrite_plain hpc, fetch_plain (s := s.setCell s.pc v) hpc]
  exact State.cell_setCell_same hwf s.pc v

/-- Settles O21: each of the three stores is `MemWrite` at the pc, STI's in the state its pointer read leaves. -/
theorem storedWordIsFetchedNext : Obligations.StoredWordIsFetchedNext := by
  intro i sr s hwf hpc hstore
  obtain rfl | ⟨off9, rfl, hptr⟩ | ⟨base, off6, rfl, haddr⟩ := hstore
  · have haddr : pcRelative 0#9 s = s.pc := by simp [pcRelative, sext]
    exact ⟨_, rfl, fetch_memWrite_pc hwf hpc haddr _, by simp⟩
  · have hr := (SameButKeyboard.refl s).memRead (pcRelative off9 s)
    refine ⟨_, rfl, ?_, by simp [indirect]⟩
    calc (fetch (memWrite (indirect off9 s).1 ((indirect off9 s).2.reg sr) (indirect off9 s).2)).1
        = (indirect off9 s).2.reg sr :=
          fetch_memWrite_pc (hr.mem ▸ hwf) (hr.pc ▸ hpc) (hptr.trans hr.pc.symm) _
      _ = s.reg sr := State.reg_congr hr.regs sr
  · exact ⟨_, rfl, fetch_memWrite_pc hwf hpc haddr _, by simp⟩

/-! ## A step by its cases (R210) -/

section
variable {s : State} (hrun : s.runState = .running) (hload : s.loaded = true)
include hrun hload

/-- A service in progress goes on. -/
theorem step_of_service {svc : Service} (hservice : s.service = some svc) : step s = .next (resumeService svc s) := by
  simp [step, hrun, hload, hservice]

/-- Between two instructions the stop request wins (R225). -/
theorem step_of_stop (hservice : s.service = none) (hstop : s.stopPending = true) : step s = .next (interrupt s) := by
  simp [step, hrun, hload, hservice, hstop]

/-- A decoded instruction is executed after its fetch. -/
theorem step_of_instr (hservice : s.service = none) (hstop : s.stopPending = false) {i : Instr}
    (hdecode : decode (fetch s).1 = .instr i) : step s = exec i (fetch s).2 := by
  simp [step, hrun, hload, hservice, hstop, hdecode]

/-- An undefined pattern faults after its fetch (R215). -/
theorem step_of_illegal (hservice : s.service = none) (hstop : s.stopPending = false) {op : IllegalOp}
    (hdecode : decode (fetch s).1 = .illegal op) :
    step s = .next (raiseFault .illegalOperand (fetch s).1 (fetch s).2) := by
  simp [step, hrun, hload, hservice, hstop, hdecode, execIllegal_eq]

end

/-- Settles O43: each case of a step answers a next state. -/
theorem runningUnitSteps : Obligations.RunningUnitSteps := by
  intro s hrun hload
  cases hservice : s.service with
  | some svc => exact ⟨_, step_of_service hrun hload hservice⟩
  | none =>
    cases hstop : s.stopPending with
    | true => exact ⟨_, step_of_stop hrun hload hservice hstop⟩
    | false =>
      cases hdecode : decode (fetch s).1 with
      | instr i =>
        obtain ⟨t, ht, -⟩ := exec_effect i (fetch s).2
        exact ⟨t, (step_of_instr hrun hload hservice hstop hdecode).trans ht⟩
      | illegal op => exact ⟨_, step_of_illegal hrun hload hservice hstop hdecode⟩

/-! ## A fetched word that faults (R50, R80, R215) -/

/-- A word in R80's table is rejected under the name of its row. -/
theorem decode_of_undefinedPattern {op : IllegalOp} {w : Word} (h : undefinedPattern op w) :
    decode w = .illegal op := by
  cases op with
  | add | and | jsrr =>
    obtain ⟨hop, hmode, hfixed⟩ := h
    simp only [decode, opcodeOf_of_field hop, hmode, if_neg hfixed]
    rfl
  | not | jmp | trap =>
    obtain ⟨hop, hfixed⟩ := h
    simp only [decode, opcodeOf_of_field hop, if_neg hfixed]
    rfl

/-- A fault right after the fetch records the fetch address (R213, log 9). -/
theorem raiseFault_fetch (c : FaultCause) (ir : Word) (s : State) :
    raiseFault c ir (fetch s).2 = { (fetch s).2 with runState := .faulted ⟨c, s.pc, ir⟩ } := by
  rw [raiseFault, fetch_pc, BitVec.add_sub_cancel]
  rfl

/-- Settles O40: the pattern is rejected by the decoder, and the step takes the fault in the state the fetch leaves. -/
theorem stepFaultsOnUndefinedPattern : Obligations.StepFaultsOnUndefinedPattern := by
  intro s op hrun hload hservice hstop
  have hfault (hpattern : undefinedPattern op (fetch s).1) :
      step s = .next { (fetch s).2 with runState := .faulted ⟨.illegalOperand, s.pc, (fetch s).1⟩ } := by
    rw [← raiseFault_fetch]
    exact step_of_illegal hrun hload hservice hstop (decode_of_undefinedPattern hpattern)
  refine ⟨hfault, fun hpc hpattern => ?_⟩
  have hfetch := fetch_plain hpc
  rw [hfetch] at hfault
  exact hfault hpattern

theorem decode_x8000 : decode 0x8000#16 = .instr (.rti 0#12) := by decide

theorem decode_x0000 : decode 0x0000#16 = .instr (.br false false false 0#9) := by decide

/-- The word x8000 is RTI: it faults with that word in the record (R160). -/
theorem exec_rti_zero (s : State) : exec (.rti 0#12) s = .next (raiseFault .rtiUnsupported 0x8000#16 s) := rfl

/-- The word x0000 is a BR that names no flag: it does nothing (R150). -/
theorem exec_nop (s : State) : exec (.br false false false 0#9) s = .next s := rfl

/-- Settles O41: the poll of the fetch answers x8000, which is RTI, or x0000, which is a no-op. -/
theorem fetchFromKeyboardStatus : Obligations.FetchFromKeyboardStatus := by
  intro s hrun hload hservice hstop hpc
  have hread : fetch s = ((memRead 0xFE00#16 s).1, (memRead 0xFE00#16 s).2.setPc 0xFE01#16) := by
    simp [fetch, hpc]
  cases hpoll : (poll s).1 with
  | some c =>
    rw [memRead_kbsr_pending hpoll] at hread
    have hdecode : decode (fetch s).1 = .instr (.rti 0#12) := by rw [hread]; exact decode_x8000
    have hstep := step_of_instr hrun hload hservice hstop hdecode
    rw [exec_rti_zero, raiseFault_fetch, hread, hpc] at hstep
    refine ⟨_, hstep, rfl, fun r _ => State.reg_congr (by simp) r, by simp, fun a => State.cell_congr (by simp) a,
      by simp, by simp [hstop], by simp [hload], by simp [hservice], rfl, rfl, rfl, ?_, rfl⟩
    exact zext8_toNat c
  | none =>
    rw [memRead_kbsr_idle hpoll] at hread
    have hdecode : decode (fetch s).1 = .instr (.br false false false 0#9) := by rw [hread]; exact decode_x0000
    have hstep := step_of_instr hrun hload hservice hstop hdecode
    rw [exec_nop, hread] at hstep
    refine ⟨_, hstep, rfl, fun r _ => State.reg_congr (by simp) r, by simp, fun a => State.cell_congr (by simp) a,
      by simp, by simp [hstop], by simp [hload], by simp [hservice], rfl, rfl, ?_⟩
    exact ⟨by simp [hrun], by simp, by simp⟩

/-! ## Only the stores write memory (R42) -/

@[simp] theorem waitChar_mem (svc : Service) (echo : Bool) (s : State) : (waitChar svc echo s).mem = s.mem := by
  obtain h | ⟨c, bs, h⟩ | h := waitChar_cases svc echo s
  · exact h ▸ rfl
  · simp [h]
  · simp [h]

@[simp] theorem resumeService_mem (svc : Service) (s : State) : (resumeService svc s).mem = s.mem := by
  cases svc with
  | getc | inp => exact waitChar_mem _ _ s
  | puts a | putsp a => exact walkString_mem _ _ _ a s

/-- TRAP with any code, a service's or not. -/
theorem execTrap_mem {v : BitVec 8} {s t : State} (h : execTrap v s = .next t) : t.mem = s.mem := by
  unfold execTrap at h
  split_ifs at h <;> cases h
  · exact waitChar_mem _ _ s
  · exact finishService_mem _
  · exact walkString_mem _ _ _ _ s
  · exact waitChar_mem _ _ _
  · exact walkString_mem _ _ _ _ s
  · exact finishService_mem _
  · rfl

/-- No instruction but the three stores changes the memory. -/
theorem exec_mem {i : Instr} {s t : State} (hi : isStore i = false) (h : exec i s = .next t) : t.mem = s.mem := by
  cases i with
  | st | sti | str => cases hi
  | addReg | addImm | andReg | andImm | not | lea => cases h; rfl
  | ld | ldi | ldr => cases h; simp [loadFrom, indirect]
  | br n z p off9 => cases h; split <;> rfl
  | jmp | jsr | jsrr | rti | reserved => cases h; rfl
  | trap v => exact execTrap_mem h
  | trapGetc | trapIn => cases h; exact waitChar_mem _ _ _
  | trapPuts | trapPutsp => cases h; exact walkString_mem _ _ _ _ s
  | trapOut | trapHalt => cases h; exact finishService_mem _

/-- Settles O49: outside the stores the memory stays the same list, so every cell does. -/
theorem onlyStoresWriteMemory : Obligations.OnlyStoresWriteMemory := by
  refine ⟨fun i s t hi h => State.cell_congr (exec_mem hi h), fun op ir s t h => ?_,
    fun svc s => State.cell_congr (resumeService_mem svc s)⟩
  rw [execIllegal_eq] at h
  cases h
  exact fun a => rfl

/-! ## No address makes an instruction fault (R43, R212) -/

theorem State.notFaulted_of_running {s : State} (h : s.runState = .running) : s.notFaulted := by
  simp [State.notFaulted, h]

theorem State.notFaulted_of_halted {s : State} {why : HaltReason} (h : s.runState = .halted why) : s.notFaulted := by
  simp [State.notFaulted, h]

/-- A wait ends Running or, given up, Halted. -/
theorem waitChar_notFaulted {s : State} (hrun : s.runState = .running) (svc : Service) (echo : Bool) :
    (waitChar svc echo s).notFaulted := by
  obtain h | ⟨c, bs, h⟩ | h := waitChar_cases svc echo s <;> rw [h]
  · exact State.notFaulted_of_halted (why := .interrupted) rfl
  · exact State.notFaulted_of_running (by simp [hrun])
  · exact State.notFaulted_of_running (by simp [hrun])

/-- Only RTI, the reserved opcode and `trap` can fault, whatever the operands and addresses are. -/
theorem exec_notFaulted {i : Instr} {s : State} (hrun : s.runState = .running) (hrti : ∀ low, i ≠ .rti low)
    (hreserved : ∀ low, i ≠ .reserved low) (htrap : ∀ v, i ≠ .trap v) :
    ∃ t, exec i s = .next t ∧ t.notFaulted := by
  cases i with
  | rti low => exact absurd rfl (hrti low)
  | reserved low => exact absurd rfl (hreserved low)
  | trap v => exact absurd rfl (htrap v)
  | addReg | addImm | andReg | andImm | not | lea => exact ⟨_, rfl, State.notFaulted_of_running hrun⟩
  | ld | ldi | ldr => exact ⟨_, rfl, State.notFaulted_of_running (by simp [loadFrom, indirect, hrun])⟩
  | st | sti | str => exact ⟨_, rfl, State.notFaulted_of_running (by simp [indirect, hrun])⟩
  | br n z p off9 => exact ⟨_, rfl, State.notFaulted_of_running (by split <;> exact hrun)⟩
  | jmp | jsr | jsrr => exact ⟨_, rfl, State.notFaulted_of_running hrun⟩
  | trapGetc => exact ⟨_, rfl, waitChar_notFaulted hrun _ _⟩
  | trapIn => exact ⟨_, rfl, waitChar_notFaulted (s := s.emit Config.inPrompt) hrun _ _⟩
  | trapPuts | trapPutsp => exact ⟨_, rfl, State.notFaulted_of_running ((walkString_runState _ _ _ _ s).trans hrun)⟩
  | trapOut => exact ⟨_, rfl, State.notFaulted_of_running ((finishService_runState _).trans hrun)⟩
  | trapHalt => exact ⟨_, rfl, State.notFaulted_of_halted (finishService_runState _)⟩

/-- Settles O11: the sums wrap, and no instruction outside the three that fault does. -/
theorem addressSumsWrap : Obligations.AddressSumsWrap := by
  refine ⟨fun off s => ?_, fun off s => ?_, fun base off s => ?_, fun s => ?_, fun bytes pause n a s hword => ?_,
    fun i s => exec_notFaulted⟩
  · exact wrapsTo_add_sext (by decide) s.pc off
  · exact BitVec.toNat_add s.pc (sext off)
  · exact wrapsTo_add_sext (by decide) (s.reg base) off
  · rw [fetch_pc]
    exact wrapsTo_add_one s.pc
  · exact ⟨a + 1#16, wrapsTo_add_one a, walkString_word hword n⟩

end Sys2Proof.Machine
end

section
/-! # The encoding family (30_encoding.md): formats, one reading per word, the faulting opcodes, label operands

Each format of R71 has one lemma in both directions: a word is put together from given fields exactly if the decoder
reads those fields from it. Decoding an encoded word goes through it one way, encoding a decoded word the other. -/

namespace Sys2Proof.Machine

/-! ## The opcode field (R70) -/

/-- The opcode's four bits in R70's table. -/
def opcodeBits (op : Opcode) : BitVec 4 :=
  match op with
  | .br => 0b0000#4
  | .add => 0b0001#4
  | .ld => 0b0010#4
  | .st => 0b0011#4
  | .jsr => 0b0100#4
  | .and => 0b0101#4
  | .ldr => 0b0110#4
  | .str => 0b0111#4
  | .rti => 0b1000#4
  | .not => 0b1001#4
  | .ldi => 0b1010#4
  | .sti => 0b1011#4
  | .jmp => 0b1100#4
  | .reserved => 0b1101#4
  | .lea => 0b1110#4
  | .trap => 0b1111#4

/-- Reading four bits as an opcode loses nothing. -/
theorem opcodeBits_ofBits (bits : BitVec 4) :
    opcodeBits (.ofBits (bits.getLsbD 3) (bits.getLsbD 2) (bits.getLsbD 1) (bits.getLsbD 0)) = bits := by
  revert bits
  decide

/-- The opcode field of a word holds the bits of the opcode the decoder reads. -/
theorem opcodeField_of_opcodeOf {w : Word} {op : Opcode} (h : opcodeOf w = op) :
    w.extractLsb' 12 4 = opcodeBits op := by
  rw [← h, opcodeOf_of_field rfl, opcodeBits_ofBits]

/-! ## The formats (R71): a word by the fields the decoder reads -/

/-- A register field by the value of the word. -/
theorem regField_eq_iff (w : Word) (lo : Nat) (r : Reg) :
    regField w lo = r ↔ w.toNat / 2 ^ lo % 2 ^ 3 = (regBits r).toNat := by
  rw [← field_eq_iff]
  exact ⟨fun h => h ▸ rfl, regField_of_field⟩

/-- One bit by the value of the word. -/
theorem bit_eq_iff (w : Word) (k : Nat) (b : Bool) : w.getLsbD k = b ↔ w.toNat / 2 ^ k % 2 = b.toNat := by
  rw [bit_eq]
  cases b <;> simp

/-- LD, LDI, LEA, ST, STI. -/
theorem eq_format_4_3_9_iff {w : Word} {op : BitVec 4} {r : Reg} {off9 : BitVec 9} :
    w = op ++ regBits r ++ off9 ↔ w.extractLsb' 12 4 = op ∧ regField w 9 = r ∧ w.extractLsb' 0 9 = off9 := by
  have := w.isLt
  have := (regBits r).isLt
  rw [← BitVec.toNat_inj, toNat_4_3_9, field_eq_iff, regField_eq_iff, field_eq_iff]
  omega

/-- LDR, STR, NOT. -/
theorem eq_format_4_3_3_6_iff {w : Word} {op : BitVec 4} {a b : Reg} {c : BitVec 6} :
    w = op ++ regBits a ++ regBits b ++ c ↔
      w.extractLsb' 12 4 = op ∧ regField w 9 = a ∧ regField w 6 = b ∧ w.extractLsb' 0 6 = c := by
  have := w.isLt
  have := (regBits a).isLt
  have := (regBits b).isLt
  rw [← BitVec.toNat_inj, toNat_4_3_3_6, field_eq_iff, regField_eq_iff, regField_eq_iff, field_eq_iff]
  omega

/-- JMP. -/
theorem eq_format_jmp_iff {w : Word} {op : BitVec 4} {fixed : BitVec 3} {base : Reg} {c : BitVec 6} :
    w = op ++ fixed ++ regBits base ++ c ↔
      w.extractLsb' 12 4 = op ∧ regField w 6 = base ∧ w.extractLsb' 9 3 = fixed ∧ w.extractLsb' 0 6 = c := by
  have := w.isLt
  have := (regBits base).isLt
  rw [← BitVec.toNat_inj, toNat_4_3_3_6]
  simp only [field_eq_iff, regField_eq_iff]
  omega

/-- JSRR; the decoder reads its three zero bits as the mode bit and a field of two. -/
theorem eq_format_jsrr_iff {w : Word} {op : BitVec 4} {base : Reg} {c : BitVec 6} :
    w = op ++ 0b000#3 ++ regBits base ++ c ↔
      w.extractLsb' 12 4 = op ∧ regField w 6 = base ∧ w.getLsbD 11 = false ∧ w.extractLsb' 9 2 = 0#2 ∧
        w.extractLsb' 0 6 = c := by
  have := w.isLt
  have := (regBits base).isLt
  rw [← BitVec.toNat_inj, toNat_4_3_3_6]
  simp only [field_eq_iff, regField_eq_iff, bit_eq_iff, BitVec.toNat_ofNat, Bool.toNat_false]
  omega

/-- ADD and AND, register form; the decoder reads the three zero bits as the mode bit and a field of two. -/
theorem eq_format_register_iff {w : Word} {op : BitVec 4} {dr sr1 sr2 : Reg} :
    w = op ++ regBits dr ++ regBits sr1 ++ 0b000#3 ++ regBits sr2 ↔
      w.extractLsb' 12 4 = op ∧ regField w 9 = dr ∧ regField w 6 = sr1 ∧ w.getLsbD 5 = false ∧
        w.extractLsb' 3 2 = 0#2 ∧ regField w 0 = sr2 := by
  have := w.isLt
  have := (regBits dr).isLt
  have := (regBits sr1).isLt
  have := (regBits sr2).isLt
  rw [← BitVec.toNat_inj, toNat_4_3_3_3_3]
  simp only [field_eq_iff, regField_eq_iff, bit_eq_iff, BitVec.toNat_ofNat, Bool.toNat_false]
  omega

/-- ADD and AND, immediate form. -/
theorem eq_format_immediate_iff {w : Word} {op : BitVec 4} {dr sr1 : Reg} {imm5 : BitVec 5} :
    w = op ++ regBits dr ++ regBits sr1 ++ 0b1#1 ++ imm5 ↔
      w.extractLsb' 12 4 = op ∧ regField w 9 = dr ∧ regField w 6 = sr1 ∧ w.getLsbD 5 = true ∧
        w.extractLsb' 0 5 = imm5 := by
  have := w.isLt
  have := (regBits dr).isLt
  have := (regBits sr1).isLt
  rw [← BitVec.toNat_inj, toNat_4_3_3_1_5]
  simp only [field_eq_iff, regField_eq_iff, bit_eq_iff, BitVec.toNat_ofNat, Bool.toNat_true]
  omega

/-- BR. -/
theorem eq_format_branch_iff {w : Word} {op : BitVec 4} {n z p : Bool} {off9 : BitVec 9} :
    w = op ++ flagBit n ++ flagBit z ++ flagBit p ++ off9 ↔
      w.extractLsb' 12 4 = op ∧ w.getLsbD 11 = n ∧ w.getLsbD 10 = z ∧ w.getLsbD 9 = p ∧
        w.extractLsb' 0 9 = off9 := by
  have := w.isLt
  have := n.toNat_lt
  have := z.toNat_lt
  have := p.toNat_lt
  rw [← BitVec.toNat_inj, toNat_4_1_1_1_9]
  simp only [field_eq_iff, bit_eq_iff, flagBit_toNat]
  omega

/-- JSR. -/
theorem eq_format_jsr_iff {w : Word} {op : BitVec 4} {off11 : BitVec 11} :
    w = op ++ 0b1#1 ++ off11 ↔
      w.extractLsb' 12 4 = op ∧ w.getLsbD 11 = true ∧ w.extractLsb' 0 11 = off11 := by
  have := w.isLt
  rw [← BitVec.toNat_inj, toNat_4_1_11]
  simp only [field_eq_iff, bit_eq_iff, BitVec.toNat_ofNat, Bool.toNat_true]
  omega

/-- RTI and the reserved opcode. -/
theorem eq_format_4_12_iff {w : Word} {op : BitVec 4} {low : BitVec 12} :
    w = op ++ low ↔ w.extractLsb' 12 4 = op ∧ w.extractLsb' 0 12 = low := by
  have := w.isLt
  rw [← BitVec.toNat_inj, toNat_4_12, field_eq_iff, field_eq_iff]
  omega

/-- TRAP; the decoder reads the fixed upper byte as the opcode and four zeros. -/
theorem eq_format_trap_iff {w : Word} {code : BitVec 8} :
    w = 0b11110000#8 ++ code ↔
      w.extractLsb' 12 4 = 0b1111#4 ∧ w.extractLsb' 8 4 = 0#4 ∧ w.extractLsb' 0 8 = code := by
  have := w.isLt
  rw [← BitVec.toNat_inj, toNat_8_8]
  simp only [field_eq_iff, BitVec.toNat_ofNat]
  omega

/-! ## Decoding an encoded instruction (R71, R85) -/

/-- The word of a well-formed instruction has the fields the decoder looks at, so it is read as that instruction. -/
theorem decode_encode {i : Instr} (hi : i.wellFormed = true) : decode (encode i) = .instr i := by
  generalize hw : encode i = w
  cases i with
  | addReg dr sr1 sr2 | andReg dr sr1 sr2 =>
    obtain ⟨hop, hdr, hsr1, hmode, hzero, hsr2⟩ := eq_format_register_iff.1 hw.symm
    simp only [decode, opcodeOf_of_field hop, hdr, hsr1, hmode, hzero, hsr2]
    rfl
  | addImm dr sr1 imm5 | andImm dr sr1 imm5 =>
    obtain ⟨hop, hdr, hsr1, hmode, himm⟩ := eq_format_immediate_iff.1 hw.symm
    simp only [decode, opcodeOf_of_field hop, hdr, hsr1, hmode, himm]
    rfl
  | ld r off9 | ldi r off9 | lea r off9 | st r off9 | sti r off9 =>
    obtain ⟨hop, hr, hoff⟩ := eq_format_4_3_9_iff.1 hw.symm
    simp only [decode, opcodeOf_of_field hop, hr, hoff]
    rfl
  | ldr a b off6 | str a b off6 =>
    obtain ⟨hop, ha, hb, hoff⟩ := eq_format_4_3_3_6_iff.1 hw.symm
    simp only [decode, opcodeOf_of_field hop, ha, hb, hoff]
    rfl
  | not dr sr =>
    obtain ⟨hop, hdr, hsr, hones⟩ := eq_format_4_3_3_6_iff.1 hw.symm
    simp only [decode, opcodeOf_of_field hop, hdr, hsr, hones]
    rfl
  | br n z p off9 =>
    obtain ⟨hop, hn, hz, hp, hoff⟩ := eq_format_branch_iff.1 hw.symm
    simp only [decode, opcodeOf_of_field hop, hn, hz, hp, hoff]
    rfl
  | jmp base =>
    obtain ⟨hop, hbase, hzero, hlow⟩ := eq_format_jmp_iff.1 hw.symm
    simp only [decode, opcodeOf_of_field hop, hbase, hzero, hlow]
    rfl
  | jsr off11 =>
    obtain ⟨hop, hmode, hoff⟩ := eq_format_jsr_iff.1 hw.symm
    simp only [decode, opcodeOf_of_field hop, hmode, hoff]
    rfl
  | jsrr base =>
    obtain ⟨hop, hbase, hmode, hzero, hlow⟩ := eq_format_jsrr_iff.1 hw.symm
    simp only [decode, opcodeOf_of_field hop, hbase, hmode, hzero, hlow]
    rfl
  | rti low | reserved low =>
    obtain ⟨hop, hlow⟩ := eq_format_4_12_iff.1 hw.symm
    simp only [decode, opcodeOf_of_field hop, hlow]
    rfl
  | trap v =>
    obtain ⟨hop, hzero, hcode⟩ := eq_format_trap_iff.1 hw.symm
    have hv : isServiceCode v = false := by simpa [Instr.wellFormed] using hi
    simp only [decode, opcodeOf_of_field hop, hzero, hcode, decodeTrap_other hv]
    rfl
  | trapGetc | trapOut | trapPuts | trapIn | trapPutsp | trapHalt =>
    subst hw
    rfl

/-- Settles O1: each format is read back field by field. -/
theorem decodeOfEncode : Obligations.DecodeOfEncode := fun _ hi => decode_encode hi

/-! ## Encoding a decoded word (R80, R84, R85) -/

/-- A trap code's constructor is well formed and its word holds the code. -/
theorem decodeTrap_spec (v : BitVec 8) :
    (decodeTrap v).wellFormed = true ∧ encode (decodeTrap v) = 0b11110000#8 ++ v := by
  unfold decodeTrap
  split_ifs with h20 h21 h22 h23 h24 h25
  · exact h20 ▸ ⟨rfl, rfl⟩
  · exact h21 ▸ ⟨rfl, rfl⟩
  · exact h22 ▸ ⟨rfl, rfl⟩
  · exact h23 ▸ ⟨rfl, rfl⟩
  · exact h24 ▸ ⟨rfl, rfl⟩
  · exact h25 ▸ ⟨rfl, rfl⟩
  · exact ⟨by simp [Instr.wellFormed, isServiceCode_false h20 h21 h22 h23 h24 h25], rfl⟩

/-- A true reading of a word: a well-formed instruction whose word it is, or a row of R80's table that lists it. -/
def IsReading (w : Word) (t : Tag) : Prop :=
  match t with
  | .instr i => i.wellFormed = true ∧ encode i = w
  | .illegal op => undefinedPattern op w

/-- The decoder's answer is a true reading, opcode by opcode. -/
theorem isReading_decode (w : Word) : IsReading w (decode w) := by
  cases hop : opcodeOf w <;> have hfield := opcodeField_of_opcodeOf hop <;> simp only [decode, hop]
  case br => exact ⟨rfl, (eq_format_branch_iff.2 ⟨hfield, rfl, rfl, rfl, rfl⟩).symm⟩
  case ld | ldi | lea | st | sti => exact ⟨rfl, (eq_format_4_3_9_iff.2 ⟨hfield, rfl, rfl⟩).symm⟩
  case ldr | str => exact ⟨rfl, (eq_format_4_3_3_6_iff.2 ⟨hfield, rfl, rfl, rfl⟩).symm⟩
  case rti | reserved => exact ⟨rfl, (eq_format_4_12_iff.2 ⟨hfield, rfl⟩).symm⟩
  case add | and =>
    split_ifs with hmode hzero
    · exact ⟨rfl, (eq_format_immediate_iff.2 ⟨hfield, rfl, rfl, hmode, rfl⟩).symm⟩
    · have hmode := Bool.eq_false_of_not_eq_true hmode
      exact ⟨rfl, (eq_format_register_iff.2 ⟨hfield, rfl, rfl, hmode, hzero, rfl⟩).symm⟩
    · exact ⟨hfield, Bool.eq_false_of_not_eq_true hmode, hzero⟩
  case jsr =>
    split_ifs with hmode hfixed
    · exact ⟨rfl, (eq_format_jsr_iff.2 ⟨hfield, hmode, rfl⟩).symm⟩
    · exact ⟨rfl, (eq_format_jsrr_iff.2 ⟨hfield, rfl, Bool.eq_false_of_not_eq_true hmode, hfixed⟩).symm⟩
    · exact ⟨hfield, Bool.eq_false_of_not_eq_true hmode, hfixed⟩
  case not =>
    split_ifs with hones
    · exact ⟨rfl, (eq_format_4_3_3_6_iff.2 ⟨hfield, rfl, rfl, hones⟩).symm⟩
    · exact ⟨hfield, hones⟩
  case jmp =>
    split_ifs with hfixed
    · exact ⟨rfl, (eq_format_jmp_iff.2 ⟨hfield, rfl, hfixed⟩).symm⟩
    · exact ⟨hfield, hfixed⟩
  case trap =>
    split_ifs with hzero
    · obtain ⟨hwf, hword⟩ := decodeTrap_spec (w.extractLsb' 0 8)
      exact ⟨hwf, hword.trans (eq_format_trap_iff.2 ⟨hfield, hzero, rfl⟩).symm⟩
    · exact ⟨hfield, hzero⟩

/-- Settles O2: a decoded instruction is a true reading. -/
theorem encodeOfDecode : Obligations.EncodeOfDecode := by
  intro w i h
  have hreading := isReading_decode w
  rwa [h] at hreading

/-- Settles O3: a rejection is a true reading, and the decoder rejects every listed pattern. -/
theorem undefinedPatternsExactlyIllegal : Obligations.UndefinedPatternsExactlyIllegal := by
  refine fun w op => ⟨fun h => ?_, decode_of_undefinedPattern⟩
  have hreading := isReading_decode w
  rwa [h] at hreading

/-- Settles O4: each word is evaluated. -/
theorem specWordsDecode : Obligations.SpecWordsDecode := by
  unfold Obligations.SpecWordsDecode
  decide

/-! ## RTI and the reserved opcode (R81, R82, R160, R161) -/

/-- A fault while pc is the fetch address plus 1 records the fetch address and changes nothing else (R213). -/
theorem raiseFault_at (c : FaultCause) (ir addr : Word) (s : State) :
    raiseFault c ir { s with pc := addr + 1#16 } =
      { s with pc := addr + 1#16, runState := .faulted ⟨c, addr, ir⟩ } := by
  simp [raiseFault, State.setRun]

/-- Settles O27: the word is RTI's encoding, and the execution is the fault entry. -/
theorem rtiFaults : Obligations.RtiFaults := by
  intro low addr s
  refine ⟨decode_encode (i := .rti low) rfl, ?_⟩
  exact congrArg Host.Outcome.next (raiseFault_at .rtiUnsupported (encode (.rti low)) addr s)

/-- Settles O28: the word is the encoding of the reserved opcode, and the execution is the fault entry. -/
theorem reservedFaults : Obligations.ReservedFaults := by
  intro low addr s
  refine ⟨decode_encode (i := .reserved low) rfl, ?_⟩
  exact congrArg Host.Outcome.next (raiseFault_at .reservedOpcode (encode (.reserved low)) addr s)

/-! ## Label operands (R75, R76, R86) -/

/-- The offset of a label that is `d` words from `addr + 1`, read as signed, is `d`. -/
theorem labelOffset_toInt {label addr : Word} {d : Int} (h : WrapsTo (addr + 1#16) d label) (hlo : -32768 ≤ d)
    (hhi : d < 32768) : (labelOffset label addr).toInt = d := by
  rw [WrapsTo] at h
  rw [labelOffset, BitVec.toInt_eq_toNat_cond, BitVec.toNat_sub]
  have := (addr + 1#16).isLt
  split <;> omega

/-- An offset in the signed range of `k` bits is its own sign-extended field. -/
theorem labelField_of_toInt {k : Nat} {label addr : Word} {d : Int} (h : (labelOffset label addr).toInt = d)
    (hk : 0 < k) (hk16 : k ≤ 16) (hlo : -2 ^ (k - 1) ≤ d) (hhi : d < 2 ^ (k - 1)) :
    ∃ o : BitVec k, labelField k label addr = some o ∧ o.toInt = d := by
  have hfield : ((labelOffset label addr).setWidth k).toInt = d := by
    rw [← BitVec.signExtend_eq_setWidth_of_le _ hk16, BitVec.signExtend, h, BitVec.toInt_ofInt_eq_self hk hlo hhi]
  refine ⟨_, if_pos ?_, hfield⟩
  rw [← BitVec.toInt_inj, BitVec.toInt_signExtend_of_le hk16, hfield, h]

/-- A label with a field: the field, sign-extended, is the label's offset. -/
theorem sext_of_labelField {k : Nat} {label addr : Word} {o : BitVec k} (h : labelField k label addr = some o) :
    sext o = labelOffset label addr := by
  obtain ⟨hrange, ho⟩ := Option.ite_none_right_eq_some.1 h
  exact Option.some.inj ho ▸ hrange

/-- The field executed at `addr` names the label. -/
theorem pcRelative_of_labelField {k : Nat} {label addr : Word} {s : State} {o : BitVec k} (hpc : s.pc = addr + 1#16)
    (h : labelField k label addr = some o) : pcRelative o s = label := by
  rw [pcRelative, sext_of_labelField h, labelOffset, hpc, BitVec.add_comm, BitVec.sub_add_cancel]

/-- Settles O60: a label in range has its field, and any field the assembler gives names its label. -/
theorem labelOperandReachesLabel : Obligations.LabelOperandReachesLabel := by
  refine ⟨fun label addr d h => ⟨fun ⟨hlo, hhi⟩ => ?_, fun ⟨hlo, hhi⟩ => ?_⟩,
    fun label addr s hpc => ⟨fun o => pcRelative_of_labelField hpc, fun o => pcRelative_of_labelField hpc⟩⟩
  · exact labelField_of_toInt (labelOffset_toInt h (by omega) (by omega)) (by decide) (by decide) hlo (by omega)
  · exact labelField_of_toInt (labelOffset_toInt h (by omega) (by omega)) (by decide) (by decide) hlo (by omega)

end Sys2Proof.Machine
end

section
/-! # The operate family (41_operate.md): ADD, AND, NOT

Each of the five instructions is one `writeResult`, so the flags and the frame are said once, for `writeResult`; what is
left of a statement is about the value alone. -/

namespace Sys2Proof.Machine

/-! ## What a written result does and leaves alone (R21, R23) -/

/-- The destination register. -/
@[simp] theorem writeResult_reg_same (dr : Reg) (v : Word) (s : State) : (writeResult dr v s).reg dr = v :=
  State.reg_setReg_same s dr v

/-- The flags are the sign of the word the destination holds (R24). -/
theorem writeResult_flagsOfSign (dr : Reg) (v : Word) (s : State) :
    FlagsOfSign ((writeResult dr v s).reg dr) (writeResult dr v s).flags := by
  rw [writeResult_reg_same, writeResult_flags]
  exact flagsOfSign_ofWord v

theorem writeResult_sameRegsExcept (dr : Reg) (v : Word) (s : State) : SameRegsExcept [dr] s (writeResult dr v s) := by
  intro q hq
  rw [writeResult_reg, if_neg (List.ne_of_not_mem_cons hq)]

theorem writeResult_sameMem (dr : Reg) (v : Word) (s : State) : SameMem s (writeResult dr v s) :=
  State.cell_congr (writeResult_mem dr v s)

theorem writeResult_sameKeyboard (dr : Reg) (v : Word) (s : State) : SameKeyboard s (writeResult dr v s) :=
  ⟨rfl, rfl, rfl, rfl⟩

theorem writeResult_sameStatus (dr : Reg) (v : Word) (s : State) : SameStatus s (writeResult dr v s) :=
  ⟨rfl, rfl, rfl, rfl, rfl⟩

/-- The whole frame of a result that was computed without a memory access. -/
theorem writeResult_resultFrame (dr : Reg) (v : Word) (s : State) : ResultFrame dr s (writeResult dr v s) :=
  ⟨writeResult_sameRegsExcept dr v s, writeResult_pc dr v s, writeResult_sameMem dr v s,
    writeResult_sameKeyboard dr v s, writeResult_sameStatus dr v s⟩

/-- An execution that ends in a written result: what is known of the value, its flags and the frame. -/
theorem exists_next_of_writeResult {i : Instr} {dr : Reg} {v : Word} {s : State}
    (hexec : exec i s = .next (writeResult dr v s)) (P : Word → Prop) (hv : P v) :
    ∃ t, exec i s = .next t ∧ P (t.reg dr) ∧ FlagsOfSign (t.reg dr) t.flags ∧ ResultFrame dr s t :=
  ⟨_, hexec, (writeResult_reg_same dr v s).symm ▸ hv, writeResult_flagsOfSign dr v s, writeResult_resultFrame dr v s⟩

/-! ## The value of each instruction (R100 to R104) -/

theorem exec_addReg (dr sr1 sr2 : Reg) (s : State) :
    exec (.addReg dr sr1 sr2) s = .next (writeResult dr (s.reg sr1 + s.reg sr2) s) := rfl

theorem exec_addImm (dr sr1 : Reg) (imm5 : BitVec 5) (s : State) :
    exec (.addImm dr sr1 imm5) s = .next (writeResult dr (s.reg sr1 + sext imm5) s) := rfl

theorem exec_andReg (dr sr1 sr2 : Reg) (s : State) :
    exec (.andReg dr sr1 sr2) s = .next (writeResult dr (s.reg sr1 &&& s.reg sr2) s) := rfl

theorem exec_andImm (dr sr1 : Reg) (imm5 : BitVec 5) (s : State) :
    exec (.andImm dr sr1 imm5) s = .next (writeResult dr (s.reg sr1 &&& sext imm5) s) := rfl

theorem exec_not (dr sr : Reg) (s : State) : exec (.not dr sr) s = .next (writeResult dr (~~~ s.reg sr) s) := rfl

/-- A bit of a word and a sign-extended immediate: above the immediate its top bit is used (R73). -/
theorem getLsbD_and_sext_imm5 (a : Word) (imm5 : BitVec 5) (k : Nat) :
    (a &&& sext imm5).getLsbD k = (a.getLsbD k && (if k < 5 then imm5.getLsbD k else imm5.getLsbD 4)) := by
  rw [BitVec.getLsbD_and, sext, BitVec.getLsbD_signExtend, BitVec.msb_eq_getLsbD_last]
  by_cases hk : k < 16
  · rw [decide_eq_true hk, Bool.true_and]
  · rw [BitVec.getLsbD_of_ge a k (Nat.le_of_not_lt hk), Bool.false_and, Bool.false_and]

/-! ## The statements -/

/-- Settles O6: the sum of words is the sum modulo 2^16. -/
theorem addRegisterResult : Obligations.AddRegisterResult := fun dr sr1 sr2 s =>
  exists_next_of_writeResult (exec_addReg dr sr1 sr2 s)
    (fun v => v.toNat = ((s.reg sr1).toNat + (s.reg sr2).toNat) % 65536) (BitVec.toNat_add _ _)

/-- Settles O7: adding the sign-extended immediate adds its signed value, wrapped. -/
theorem addImmediateResult : Obligations.AddImmediateResult := fun dr sr1 imm5 s =>
  exists_next_of_writeResult (exec_addImm dr sr1 imm5 s) (WrapsTo (s.reg sr1) imm5.toInt)
    (wrapsTo_add_sext (by decide) _ imm5)

/-- Settles O8: each bit is the conjunction of the sources' bits. -/
theorem andRegisterResult : Obligations.AndRegisterResult := fun dr sr1 sr2 s =>
  exists_next_of_writeResult (exec_andReg dr sr1 sr2 s)
    (fun v => ∀ k : Nat, v.getLsbD k = ((s.reg sr1).getLsbD k && (s.reg sr2).getLsbD k)) fun _ => BitVec.getLsbD_and

/-- Settles O9: each bit is the conjunction of the source's bit and the extended immediate's. -/
theorem andImmediateResult : Obligations.AndImmediateResult := fun dr sr1 imm5 s =>
  exists_next_of_writeResult (exec_andImm dr sr1 imm5 s)
    (fun v => ∀ k : Nat, v.getLsbD k =
      ((s.reg sr1).getLsbD k && (if k < 5 then imm5.getLsbD k else imm5.getLsbD 4)))
    (getLsbD_and_sext_imm5 _ imm5)

/-- Settles O10: the complement of a word is its distance from 65535. -/
theorem notResult : Obligations.NotResult := fun dr sr s =>
  exists_next_of_writeResult (exec_not dr sr s) (fun v => v.toNat = 65535 - (s.reg sr).toNat) BitVec.toNat_not

end Sys2Proof.Machine
end

section
/-! # The load and store family (42_load_store.md): LD, LDI, LDR, LEA, ST, STI, STR

Every load is one `loadFrom` and every store one `memWrite`, in the old state or in the one a pointer read leaves. So the
load's frame and what a store does are said once each, for a state that differs from the old one in the keyboard only. -/

namespace Sys2Proof.Machine

/-! ## What a read leaves alone, as a frame (R44) -/

theorem SameButKeyboard.reg {s r : State} (h : SameButKeyboard s r) (q : Reg) : r.reg q = s.reg q :=
  State.reg_congr h.regs q

theorem SameButKeyboard.sameMem {s r : State} (h : SameButKeyboard s r) : SameMem s r := State.cell_congr h.mem

theorem SameButKeyboard.sameStatus {s r : State} (h : SameButKeyboard s r) : SameStatus s r :=
  ⟨h.runState, h.stopPending, h.out, h.loaded, h.service⟩

theorem SameStatus.trans {s r t : State} (h : SameStatus s r) (h' : SameStatus r t) : SameStatus s t := by
  obtain ⟨hrun, hstop, hout, hloaded, hservice⟩ := h
  obtain ⟨hrun', hstop', hout', hloaded', hservice'⟩ := h'
  exact ⟨hrun'.trans hrun, hstop'.trans hstop, hout'.trans hout, hloaded'.trans hloaded, hservice'.trans hservice⟩

/-- A result written after reads: the reads account for the keyboard, and `DR` for the registers. -/
theorem SameButKeyboard.loadFrame_writeResult {s r : State} (h : SameButKeyboard s r) (dr : Reg) (v : Word) :
    LoadFrame dr s r (writeResult dr v r) :=
  ⟨fun q hq => (writeResult_sameRegsExcept dr v r q hq).trans (h.reg q), h.pc, h.sameMem,
    writeResult_sameKeyboard dr v r, h.sameStatus⟩

/-! ## Loads (R120, R121, R122) -/

theorem exec_ld (dr : Reg) (off9 : BitVec 9) (s : State) :
    exec (.ld dr off9) s = .next (loadFrom dr (pcRelative off9 s) s) := rfl

theorem exec_ldi (dr : Reg) (off9 : BitVec 9) (s : State) :
    exec (.ldi dr off9) s = .next (loadFrom dr (indirect off9 s).1 (indirect off9 s).2) := rfl

theorem exec_ldr (dr base : Reg) (off6 : BitVec 6) (s : State) :
    exec (.ldr dr base off6) s = .next (loadFrom dr (baseOffset base off6 s) s) := rfl

/-- The pointer read of LDI and STI changes at most the keyboard. -/
theorem indirect_sameButKeyboard (off9 : BitVec 9) (s : State) : SameButKeyboard s (indirect off9 s).2 :=
  (SameButKeyboard.refl s).memRead _

/-- An execution from `s` that ends in a load from `a` in the state `r` its earlier reads left. -/
theorem exists_next_of_loadFrom {i : Instr} {dr : Reg} {a : Word} {s r : State}
    (hexec : exec i s = .next (loadFrom dr a r)) (hr : SameButKeyboard s r) :
    ∃ t, exec i s = .next t ∧ t.reg dr = (memRead a r).1 ∧ FlagsOfSign (t.reg dr) t.flags ∧
      LoadFrame dr s (memRead a r).2 t :=
  ⟨_, hexec, writeResult_reg_same .., writeResult_flagsOfSign .., (hr.memRead a).loadFrame_writeResult dr _⟩

/-- Settles O12: one read, in the old state. -/
theorem loadResult : Obligations.LoadResult := fun dr off9 s =>
  exists_next_of_loadFrom (exec_ld dr off9 s) (.refl s)

/-- Settles O13: the data read is made in the state that the pointer read leaves. -/
theorem loadIndirectResult : Obligations.LoadIndirectResult := fun dr off9 s =>
  exists_next_of_loadFrom (exec_ldi dr off9 s) (indirect_sameButKeyboard off9 s)

/-- Settles O14: one read; the address is a sum in the old state, so `DR` may be the base. -/
theorem loadBaseResult : Obligations.LoadBaseResult := fun dr base off6 s =>
  exists_next_of_loadFrom (exec_ldr dr base off6 s) (.refl s)

/-! ## LEA (R123) -/

theorem exec_lea (dr : Reg) (off9 : BitVec 9) (s : State) :
    exec (.lea dr off9) s = .next (writeResult dr (pcRelative off9 s) s) := rfl

/-- Settles O15: the result is the wrapped address sum, and no memory access stands before it. -/
theorem loadAddressResult : Obligations.LoadAddressResult := fun dr off9 s =>
  exists_next_of_writeResult (exec_lea dr off9 s) (WrapsTo s.pc off9.toInt) (wrapsTo_add_sext (by decide) s.pc off9)

/-! ## Stores (R45, R49, R124, R125, R126) -/

theorem memWrite_kbsr (v : Word) (s : State) : memWrite kbsrAddr v s = s := rfl

theorem memWrite_kbdr (v : Word) (s : State) : memWrite kbdrAddr v s = s.setLatch v true := rfl

theorem isKeyboard_eq_true_iff (a : Word) : isKeyboard a = true ↔ a = kbsrAddr ∨ a = kbdrAddr := by
  simp [isKeyboard]

/-- No keyboard address stands for a cell that a store could change (R49). -/
theorem memWrite_cell_of_isKeyboard {a : Word} (ha : isKeyboard a = true) (v : Word) (s : State) (b : Word) :
    (memWrite a v s).cell b = s.cell b := by
  obtain rfl | rfl := (isKeyboard_eq_true_iff a).1 ha
  · rw [memWrite_kbsr]
  · rw [memWrite_kbdr]; rfl

/-- An ordinary address holds the word stored. -/
theorem memWrite_cell_same {a : Word} {s : State} (ha : isKeyboard a = false) (hwf : Memory.wf s.mem = true)
    (v : Word) : (memWrite a v s).cell a = v := by
  rw [memWrite_plain ha]
  exact State.cell_setCell_same hwf a v

/-- Only a store to KBDR touches the latch (R49). -/
theorem memWrite_latch_of_ne {a : Word} (ha : a ≠ kbdrAddr) (v : Word) (s : State) :
    (memWrite a v s).kbdrLatch = s.kbdrLatch ∧ (memWrite a v s).kbdrValid = s.kbdrValid := by
  cases hkey : isKeyboard a with
  | false => rw [memWrite_plain hkey]; exact ⟨rfl, rfl⟩
  | true =>
    obtain rfl := ((isKeyboard_eq_true_iff a).1 hkey).resolve_right ha
    exact ⟨rfl, rfl⟩

theorem memWrite_sameRegsExcept (a v : Word) (s : State) : SameRegsExcept [] s (memWrite a v s) :=
  fun q _ => State.reg_congr (memWrite_regs a v s) q

theorem memWrite_sameStatus (a v : Word) (s : State) : SameStatus s (memWrite a v s) :=
  ⟨memWrite_runState a v s, memWrite_stopPending a v s, memWrite_out a v s, memWrite_loaded a v s,
    memWrite_service a v s⟩

/-- `MemWrite` stores: the cell or the latch, and the whole frame. -/
theorem memWrite_stored (a v : Word) (s : State) : Stored a v s (memWrite a v s) := by
  refine ⟨fun b hb => memWrite_cell_ne s hb v, fun ha hwf => memWrite_cell_same ha hwf v,
    fun ha => memWrite_cell_of_isKeyboard ha v s a, ?kbdr, fun ha => memWrite_latch_of_ne ha v s,
    memWrite_sameRegsExcept a v s, memWrite_flags a v s, memWrite_pc a v s, memWrite_input a v s, memWrite_draws a v s,
    memWrite_sameStatus a v s⟩
  case kbdr =>
    rintro rfl
    rw [memWrite_kbdr]
    exact ⟨rfl, rfl⟩

theorem exec_st (sr : Reg) (off9 : BitVec 9) (s : State) :
    exec (.st sr off9) s = .next (memWrite (pcRelative off9 s) (s.reg sr) s) := rfl

/-- STI stores the register as it was before the pointer read, which changes none. -/
theorem exec_sti (sr : Reg) (off9 : BitVec 9) (s : State) :
    exec (.sti sr off9) s = .next (memWrite (indirect off9 s).1 (s.reg sr) (indirect off9 s).2) := by
  rw [← (indirect_sameButKeyboard off9 s).reg sr]
  rfl

theorem exec_str (sr base : Reg) (off6 : BitVec 6) (s : State) :
    exec (.str sr base off6) s = .next (memWrite (baseOffset base off6 s) (s.reg sr) s) := rfl

/-- Settles O18: one `MemWrite` at the PC-relative address. -/
theorem storeResult : Obligations.StoreResult := fun sr off9 s =>
  ⟨_, exec_st sr off9 s, memWrite_stored _ _ s⟩

/-- Settles O19: one `MemWrite` in the state the pointer read leaves; neither of the two changes more than the keyboard and
the cell. -/
theorem storeIndirectResult : Obligations.StoreIndirectResult := by
  intro sr off9 s
  have hread := indirect_sameButKeyboard off9 s
  refine ⟨_, exec_sti sr off9 s, memWrite_stored _ _ _, hread.sameMem, fun q hq => ?regs, ?flags, ?pc, ?status⟩
  case regs => exact (memWrite_sameRegsExcept _ _ _ q hq).trans (hread.reg q)
  case flags => exact (memWrite_flags _ _ _).trans hread.flags
  case pc => exact (memWrite_pc _ _ _).trans hread.pc
  case status => exact hread.sameStatus.trans (memWrite_sameStatus _ _ _)

/-- Settles O20: one `MemWrite` at the base plus the offset. -/
theorem storeBaseResult : Obligations.StoreBaseResult := fun sr base off6 s =>
  ⟨_, exec_str sr base off6 s, memWrite_stored _ _ s⟩

end Sys2Proof.Machine
end

section
/-! # The control family (43_control.md): BR, JMP, JSR, JSRR, and RET after a call

A transfer is one `setPc`, after the link for a call; a BR that is not taken sets the pc it has. So the frame is said
once for each of the two forms, and RET after a call is read off the statements about the call and about JMP. -/

namespace Sys2Proof.Machine

/-! ## What a transfer leaves alone (R25, R42) -/

theorem setPc_transferFrame (target : Word) (s : State) : TransferFrame [] target s (s.setPc target) :=
  ⟨rfl, fun _ _ => rfl, rfl, fun _ => rfl, ⟨rfl, rfl, rfl, rfl⟩, rfl, rfl, rfl, rfl, rfl⟩

/-- A transfer after the link writes R7 and the pc, nothing else. -/
theorem linkedSetPc_transferFrame (target : Word) (s : State) :
    TransferFrame [7] target s ((s.setReg 7 s.pc).setPc target) :=
  ⟨rfl, fun _ hq => s.reg_setReg_ne (List.ne_of_not_mem_cons hq) s.pc, rfl, fun _ => rfl, ⟨rfl, rfl, rfl, rfl⟩,
    rfl, rfl, rfl, rfl, rfl⟩

/-! ## BR and JMP (R150, R151) -/

theorem branchTaken_iff (n z p : Bool) (f : Flags) :
    branchTaken n z p f = true ↔ (n = true ∧ f.n = true) ∨ (z = true ∧ f.z = true) ∨ (p = true ∧ f.p = true) := by
  simp [branchTaken, or_assoc]

/-- BR as one transfer, to its target or to the pc it has. -/
theorem exec_br (n z p : Bool) (off9 : BitVec 9) (s : State) :
    exec (.br n z p off9) s = .next (s.setPc (if branchTaken n z p s.flags then pcRelative off9 s else s.pc)) :=
  congrArg Host.Outcome.next (apply_ite s.setPc _ _ s.pc).symm

theorem exec_jmp (base : Reg) (s : State) : exec (.jmp base) s = .next (s.setPc (s.reg base)) := rfl

/-- Settles O22: the two clauses are the two values of `branchTaken`. -/
theorem branchResult : Obligations.BranchResult := by
  intro n z p off9 s
  refine ⟨_, exec_br n z p off9 s, setPc_transferFrame _ s, fun hnamed => ?taken, fun hnone => ?untaken⟩
  case taken =>
    rw [State.setPc_pc, if_pos ((branchTaken_iff n z p s.flags).2 hnamed)]
    exact wrapsTo_add_sext (by decide) s.pc off9
  case untaken =>
    rw [State.setPc_pc, if_neg (mt (branchTaken_iff n z p s.flags).1 hnone)]

/-- Settles O23: one transfer to the base register. -/
theorem jumpResult : Obligations.JumpResult := fun base s =>
  ⟨_, exec_jmp base s, setPc_transferFrame _ s⟩

/-! ## JSR and JSRR (R152, R153) -/

theorem exec_jsr (off11 : BitVec 11) (s : State) :
    exec (.jsr off11) s = .next ((s.setReg 7 s.pc).setPc (pcRelative off11 s)) := rfl

/-- The base is the old one, also where it is R7 (D6). -/
theorem exec_jsrr (base : Reg) (s : State) :
    exec (.jsrr base) s = .next ((s.setReg 7 s.pc).setPc (s.reg base)) := rfl

/-- Settles O24: a transfer after the link, to the wrapped sum in the old state. -/
theorem callResult : Obligations.CallResult := fun off11 s =>
  ⟨_, exec_jsr off11 s, s.reg_setReg_same 7 s.pc, wrapsTo_add_sext (by decide) s.pc off11,
    linkedSetPc_transferFrame _ s⟩

/-- Settles O25: a transfer after the link, to the base as the old state holds it. -/
theorem callRegisterResult : Obligations.CallRegisterResult := fun base s =>
  ⟨_, exec_jsrr base s, s.reg_setReg_same 7 s.pc, linkedSetPc_transferFrame _ s⟩

/-! ## RET after a call (R156) -/

/-- What JSR and JSRR have in common: the link, and a transfer that writes no other register. -/
theorem exists_next_of_call {i : Instr} (hcall : (∃ off11, i = .jsr off11) ∨ (∃ base, i = .jsrr base)) (s : State) :
    ∃ t, exec i s = .next t ∧ t.reg 7 = s.pc ∧ ∃ target, TransferFrame [7] target s t := by
  obtain ⟨off11, rfl⟩ | ⟨base, rfl⟩ := hcall
  · obtain ⟨t, hexec, hlink, _, hframe⟩ := callResult off11 s
    exact ⟨t, hexec, hlink, _, hframe⟩
  · obtain ⟨t, hexec, hlink, hframe⟩ := callRegisterResult base s
    exact ⟨t, hexec, hlink, _, hframe⟩

/-- Settles O26: JMP R7 goes to the link, and the frames of the two transfers compose. -/
theorem returnUndoesCall : Obligations.ReturnUndoesCall := by
  intro i s hi
  obtain ⟨t, hcall, hlink, _, _, hregs, hflags, hmem, _⟩ := exists_next_of_call hi s
  obtain ⟨u, hret, hpc, hregs', hflags', hmem', _⟩ := jumpResult 7 t
  exact ⟨t, u, hcall, hret, hpc.trans hlink, fun q hq => (hregs' q List.not_mem_nil).trans (hregs q hq),
    hflags'.trans hflags, fun a => (hmem' a).trans (hmem a)⟩

end Sys2Proof.Machine
end

section
/-! # The trap family (44_trap.md): TRAP's codes, the six services, waits and pauses, the stop request, the output

The output is written by `emit` alone and read by nothing, so every operation commutes with bytes put in front of it. A
service ends in one of three ways, and each is said once: `finishService`, the wait of GETC and IN, and the string walk of
PUTS and PUTSP, whose reads `StringReads` lists. -/

namespace Sys2Proof.Machine

/-! ## No operation reads the output (R180) -/

namespace State

variable (pre : List Byte) (s : State)

@[simp] theorem outAfter_pc : (s.outAfter pre).pc = s.pc := rfl
@[simp] theorem outAfter_kbdrLatch : (s.outAfter pre).kbdrLatch = s.kbdrLatch := rfl
@[simp] theorem outAfter_kbdrValid : (s.outAfter pre).kbdrValid = s.kbdrValid := rfl
@[simp] theorem outAfter_draws : (s.outAfter pre).draws = s.draws := rfl
@[simp] theorem reg_outAfter (r : Reg) : (s.outAfter pre).reg r = s.reg r := rfl

@[simp] theorem setReg_outAfter (r : Reg) (v : Word) :
    (s.outAfter pre).setReg r v = (s.setReg r v).outAfter pre := rfl
@[simp] theorem setPc_outAfter (v : Word) : (s.outAfter pre).setPc v = (s.setPc v).outAfter pre := rfl
@[simp] theorem setLatch_outAfter (v : Word) (b : Bool) :
    (s.outAfter pre).setLatch v b = (s.setLatch v b).outAfter pre := rfl
@[simp] theorem setRun_outAfter (r : RunState) : (s.outAfter pre).setRun r = (s.setRun r).outAfter pre := rfl
@[simp] theorem countDraw_outAfter : (s.outAfter pre).countDraw = s.countDraw.outAfter pre := rfl

/-- Emitting appends behind whatever stands in front. -/
@[simp] theorem emit_outAfter (bs : List Byte) : (s.outAfter pre).emit bs = (s.emit bs).outAfter pre := by
  simp [State.emit, State.outAfter]

end State

section
variable (pre : List Byte)

theorem poll_outAfter (s : State) : poll (s.outAfter pre) = ((poll s).1, (poll s).2.outAfter pre) := by
  cases hinput : s.input with
  | nil => rw [poll_free hinput, poll_free (s := s.outAfter pre) hinput]; rfl
  | cons r rest => rw [poll_fixed hinput, poll_fixed (s := s.outAfter pre) hinput]; rfl

theorem kbsrRead_outAfter (s : State) :
    kbsrRead (s.outAfter pre) = ((kbsrRead s).1, (kbsrRead s).2.outAfter pre) := by
  have hpoll := poll_outAfter pre s
  rcases hs : poll s with ⟨_ | c, s1⟩ <;> rw [hs] at hpoll
  · rw [kbsrRead_idle hs, kbsrRead_idle hpoll]
  · rw [kbsrRead_pending hs, kbsrRead_pending hpoll]; rfl

theorem kbdrRead_outAfter (s : State) :
    kbdrRead (s.outAfter pre) = ((kbdrRead s).1, (kbdrRead s).2.outAfter pre) := by
  cases hvalid : s.kbdrValid <;> simp [kbdrRead, hvalid]

@[simp] theorem memRead_outAfter (a : Word) (s : State) :
    memRead a (s.outAfter pre) = ((memRead a s).1, (memRead a s).2.outAfter pre) := by
  unfold memRead
  split_ifs
  · exact kbsrRead_outAfter pre s
  · exact kbdrRead_outAfter pre s
  · rfl

theorem memWrite_outAfter (a v : Word) (s : State) :
    memWrite a v (s.outAfter pre) = (memWrite a v s).outAfter pre := by
  unfold memWrite
  split_ifs <;> rfl

theorem fetch_outAfter (s : State) : fetch (s.outAfter pre) = ((fetch s).1, (fetch s).2.outAfter pre) := by
  simp [fetch]

theorem loadFrom_outAfter (dr : Reg) (a : Word) (s : State) :
    loadFrom dr a (s.outAfter pre) = (loadFrom dr a s).outAfter pre := by
  rw [loadFrom, memRead_outAfter]
  rfl

@[simp] theorem finishService_outAfter (s : State) :
    finishService (s.outAfter pre) = (finishService s).outAfter pre := by
  unfold finishService
  split <;> rfl

theorem waitChar_outAfter (svc : Service) (echo : Bool) (s : State) :
    waitChar svc echo (s.outAfter pre) = (waitChar svc echo s).outAfter pre := by
  cases hstop : s.stopPending with
  | true => rw [waitChar_stopped hstop, waitChar_stopped (s := s.outAfter pre) hstop]; rfl
  | false =>
    have hpoll := poll_outAfter pre s
    rcases hs : poll s with ⟨_ | c, s1⟩ <;> rw [hs] at hpoll
    · rw [waitChar_timeout hstop hs, waitChar_timeout (s := s.outAfter pre) hstop hpoll]; rfl
    · rw [waitChar_char hstop hs, waitChar_char (s := s.outAfter pre) hstop hpoll]
      cases echo <;> simp

theorem walkString_outAfter (bytes : Word → List Byte) (pause : Word → Service) (n : Nat) (a : Word) (s : State) :
    walkString bytes pause n a (s.outAfter pre) = (walkString bytes pause n a s).outAfter pre := by
  induction n generalizing a s with
  | zero => rfl
  | succ n ih =>
    by_cases hend : (memRead a s).1 = 0#16
    · rw [walkString_end hend, walkString_end (by simpa using hend)]; simp
    · rw [walkString_word hend, walkString_word (by simpa using hend)]; simp [ih]

theorem resumeService_outAfter (svc : Service) (s : State) :
    resumeService svc (s.outAfter pre) = (resumeService svc s).outAfter pre := by
  cases svc with
  | getc | inp => exact waitChar_outAfter pre _ _ s
  | puts a | putsp a => exact walkString_outAfter pre _ _ _ a s

theorem serviceIn_outAfter (s : State) : serviceIn (s.outAfter pre) = (serviceIn s).outAfter pre := by
  rw [serviceIn, State.emit_outAfter, waitChar_outAfter]
  rfl

theorem serviceOut_outAfter (s : State) : serviceOut (s.outAfter pre) = (serviceOut s).outAfter pre := by
  simp [serviceOut]

theorem serviceHalt_outAfter (s : State) : serviceHalt (s.outAfter pre) = (serviceHalt s).outAfter pre := by
  simp [serviceHalt]

theorem execTrap_outAfter (v : BitVec 8) (s : State) :
    execTrap v (s.outAfter pre) = mapNext (State.outAfter pre) (execTrap v s) := by
  unfold execTrap
  split_ifs
  · exact congrArg Host.Outcome.next (waitChar_outAfter pre _ _ s)
  · exact congrArg Host.Outcome.next (serviceOut_outAfter pre s)
  · exact congrArg Host.Outcome.next (walkString_outAfter pre _ _ _ _ s)
  · exact congrArg Host.Outcome.next (serviceIn_outAfter pre s)
  · exact congrArg Host.Outcome.next (walkString_outAfter pre _ _ _ _ s)
  · exact congrArg Host.Outcome.next (serviceHalt_outAfter pre s)
  · rfl

/-- Every instruction does the same with other bytes emitted earlier. -/
theorem exec_outAfter (i : Instr) (s : State) :
    exec i (s.outAfter pre) = mapNext (State.outAfter pre) (exec i s) := by
  cases i with
  | addReg | addImm | andReg | andImm | not | lea | jmp | jsr | jsrr | rti | reserved => rfl
  | br n z p off9 => rw [exec_br, exec_br]; rfl
  | ld dr off9 => exact congrArg Host.Outcome.next (loadFrom_outAfter pre dr _ s)
  | ldr dr base off6 => exact congrArg Host.Outcome.next (loadFrom_outAfter pre dr _ s)
  | ldi dr off9 =>
    rw [exec_ldi, exec_ldi, indirect, memRead_outAfter, loadFrom_outAfter]
    rfl
  | st sr off9 => exact congrArg Host.Outcome.next (memWrite_outAfter pre _ _ s)
  | str sr base off6 => exact congrArg Host.Outcome.next (memWrite_outAfter pre _ _ s)
  | sti sr off9 =>
    rw [exec_sti, exec_sti, indirect, memRead_outAfter, memWrite_outAfter]
    rfl
  | trap v => exact execTrap_outAfter pre v s
  | trapGetc => exact congrArg Host.Outcome.next (waitChar_outAfter pre _ _ s)
  | trapOut => exact congrArg Host.Outcome.next (serviceOut_outAfter pre s)
  | trapPuts | trapPutsp => exact congrArg Host.Outcome.next (walkString_outAfter pre _ _ _ _ s)
  | trapIn => exact congrArg Host.Outcome.next (serviceIn_outAfter pre s)
  | trapHalt => exact congrArg Host.Outcome.next (serviceHalt_outAfter pre s)

end

/-- Halted and Faulted have no step (R211). -/
theorem step_of_not_running {s : State} (h : s.runState ≠ .running) : step s = .fault .runEnded := by
  unfold step
  split
  · rfl
  · rfl
  · exact absurd ‹_› h

/-- A Running unit has no step before the load (R250). -/
theorem step_of_not_loaded {s : State} (hrun : s.runState = .running) (hload : s.loaded = false) :
    step s = .fault .imageNotLoaded := by
  simp [step, hrun, hload]

/-- Settles O51: by the cases of a step, which do not depend on the output; in each one the operations commute with the
bytes in front. -/
theorem outputIsNeverRead : Obligations.OutputIsNeverRead := by
  intro pre s
  by_cases hrun : s.runState = .running
  case neg => rw [step_of_not_running hrun, step_of_not_running (s := s.outAfter pre) hrun]; rfl
  cases hload : s.loaded with
  | false => rw [step_of_not_loaded hrun hload, step_of_not_loaded (s := s.outAfter pre) hrun hload]; rfl
  | true =>
    cases hservice : s.service with
    | some svc =>
      rw [step_of_service hrun hload hservice, step_of_service (s := s.outAfter pre) hrun hload hservice,
        resumeService_outAfter]
      rfl
    | none =>
      cases hstop : s.stopPending with
      | true =>
        rw [step_of_stop hrun hload hservice hstop, step_of_stop (s := s.outAfter pre) hrun hload hservice hstop]
        rfl
      | false =>
        have hfetch := fetch_outAfter pre s
        cases hdecode : decode (fetch s).1 with
        | instr i =>
          have hdecode' : decode (fetch (s.outAfter pre)).1 = .instr i := by rw [hfetch]; exact hdecode
          rw [step_of_instr hrun hload hservice hstop hdecode,
            step_of_instr (s := s.outAfter pre) hrun hload hservice hstop hdecode', hfetch, exec_outAfter]
        | illegal op =>
          have hdecode' : decode (fetch (s.outAfter pre)).1 = .illegal op := by rw [hfetch]; exact hdecode
          rw [step_of_illegal hrun hload hservice hstop hdecode,
            step_of_illegal (s := s.outAfter pre) hrun hload hservice hstop hdecode', hfetch]
          rfl

/-! ## The output only grows (R180) -/

theorem waitChar_out_grows (svc : Service) (echo : Bool) (s : State) : s.out <+: (waitChar svc echo s).out := by
  obtain h | ⟨c, bs, h⟩ | h := waitChar_cases svc echo s <;> rw [h]
  · exact List.prefix_rfl
  · simp
  · simp

/-- A wait without echo emits nothing. -/
theorem waitChar_out_of_no_echo (svc : Service) (s : State) : (waitChar svc false s).out = s.out := by
  cases hstop : s.stopPending with
  | true => rw [waitChar_stopped hstop]; rfl
  | false =>
    have hout := poll_out s
    rcases hs : poll s with ⟨_ | c, s1⟩ <;> rw [hs] at hout
    · rw [waitChar_timeout hstop hs]; exact hout
    · rw [waitChar_char hstop hs]; simpa using hout

theorem walkString_out_grows (bytes : Word → List Byte) (pause : Word → Service) (n : Nat) (a : Word) (s : State) :
    s.out <+: (walkString bytes pause n a s).out := by
  induction n generalizing a s with
  | zero => exact List.prefix_rfl
  | succ n ih =>
    by_cases hend : (memRead a s).1 = 0#16
    · rw [walkString_end hend]; simp
    · rw [walkString_word hend]
      exact List.IsPrefix.trans (by simp) (ih _ _)

theorem resumeService_out_grows (svc : Service) (s : State) : s.out <+: (resumeService svc s).out := by
  cases svc with
  | getc | inp => exact waitChar_out_grows _ _ s
  | puts a | putsp a => exact walkString_out_grows _ _ _ a s

theorem ExecEffect.out_grows {i : Instr} {s t : State} (h : ExecEffect i s t) : s.out <+: t.out := by
  cases h with
  | result dr v _ _ hr => simp [hr.out]
  | store a v _ hr => simp [hr.out]
  | jump | call | fault => exact List.prefix_rfl
  | wait svc echo prompt =>
    exact (List.prefix_append s.out prompt).trans (waitChar_out_grows svc echo (s.emit prompt))
  | walk bytes pause a => exact walkString_out_grows bytes pause stringFuel a s
  | put | halt => simp

/-- TRAP with a code of its own faults before any service action (R189). -/
theorem exec_trap_of_no_service {v : BitVec 8} (hv : isServiceCode v = false) (s : State) :
    exec (.trap v) s = .next (raiseFault .undefinedTrap (encode (.trap v)) s) := by
  have hne {c : BitVec 8} (hc : isServiceCode c = true) : v ≠ c := by
    rintro rfl
    exact absurd hc (by simp [hv])
  rw [exec, execTrap]
  repeat rw [if_neg (hne rfl)]

/-- An instruction outside R180's list emits nothing. -/
theorem exec_out {i : Instr} {s t : State} (hi : mayEmit i = false) (h : exec i s = .next t) : t.out = s.out := by
  cases i with
  | addReg | addImm | andReg | andImm | not | lea | jmp | jsr | jsrr | rti | reserved => cases h; rfl
  | ld | ldi | ldr => cases h; simp [loadFrom, indirect]
  | st | sti | str => cases h; simp [indirect]
  | br n z p off9 => rw [exec_br] at h; cases h; rfl
  | trap v => rw [exec_trap_of_no_service hi] at h; cases h; rfl
  | trapGetc => cases h; exact waitChar_out_of_no_echo _ s
  | trapOut | trapPuts | trapIn | trapPutsp | trapHalt => cases hi

/-- Settles O50: each case of a step appends, and an instruction outside the list appends nothing. -/
theorem outputOnlyGrows : Obligations.OutputOnlyGrows := by
  refine ⟨fun s t hstep => ?_, fun i s t => exec_out⟩
  obtain ⟨-, -, hcase⟩ := step_cases hstep
  obtain ⟨svc, -, rfl⟩ | ⟨-, -, rfl⟩ | ⟨-, -, i, -, hexec⟩ | ⟨-, -, op, -, rfl⟩ := hcase
  · exact resumeService_out_grows svc s
  · exact List.prefix_rfl
  · simpa using (ExecEffect.of_exec hexec).out_grows
  · simp [raiseFault]

/-! ## TRAP by its code (R181, R189) -/

/-- Settles O29: a code outside the services faults, each service's code is that service's arm. -/
theorem trapDispatchesOnItsCode : Obligations.TrapDispatchesOnItsCode := by
  refine ⟨fun v addr s hv => ?_, fun s => ⟨rfl, rfl, rfl, rfl, rfl, rfl⟩⟩
  have hcode : isServiceCode v = false := decide_eq_false (by omega)
  rw [exec_trap_of_no_service hcode, raiseFault_at]
  rfl

/-! ## A completed service (R181, R182, R190, R192) -/

/-- A service that ends in `u`, having written registers of `rs` and no other part of the unit but the keyboard, the
output and the run state. -/
theorem finishService_trapDone {rs : List Reg} {s u : State} (hlink : u.reg 7 = s.reg 7) (hregs : SameRegsExcept rs s u)
    (hflags : u.flags = s.flags) (hpc : u.pc = s.pc) (hmem : u.mem = s.mem) (hstop : u.stopPending = s.stopPending)
    (hloaded : u.loaded = s.loaded) : TrapDone rs s (finishService u) := by
  refine ⟨?link, fun q hq => ?regs, by simp [hflags], by simp [hpc], State.cell_congr (by simp [hmem]), by simp [hstop],
    by simp [hloaded], finishService_service u⟩
  case link => rw [finishService_reg, linkedR7, hpc, hlink]; simp
  case regs =>
    rw [finishService_reg_ne fun _ => List.ne_of_not_mem_cons hq, hregs q (List.not_mem_of_not_mem_cons hq)]

theorem finishService_sameKeyboard {s u : State} (h : SameKeyboard s u) : SameKeyboard s (finishService u) := by
  obtain ⟨hlatch, hvalid, hinput, hdraws⟩ := h
  exact ⟨by simp [hlatch], by simp [hvalid], by simp [hinput], by simp [hdraws]⟩

/-- The low byte of a word by its value. -/
theorem lowByte_eq (w : Word) : w.extractLsb' 0 8 = BitVec.ofNat 8 (w.toNat % 256) := by
  rw [field_eq_iff]; simp

/-- The high byte of a word by its value. -/
theorem highByte_eq (w : Word) : w.extractLsb' 8 8 = BitVec.ofNat 8 (w.toNat / 256) := by
  rw [field_eq_iff]; simp

/-! ## OUT and HALT (R184, R188) -/

theorem exec_trapOut (s : State) : exec .trapOut s = .next (finishService (s.emit [(s.reg 0).extractLsb' 0 8])) := rfl

theorem exec_trapHalt (s : State) :
    exec .trapHalt s = .next (finishService ((s.emit Config.haltNotice).setRun (.halted .haltTrap))) := rfl

/-- Settles O32: one byte is emitted, and the service is done. -/
theorem outEmitsLowByte : Obligations.OutEmitsLowByte := fun s =>
  ⟨_, exec_trapOut s, by simp [lowByte_eq], finishService_trapDone rfl (fun _ _ => rfl) rfl rfl rfl rfl rfl, by simp,
    finishService_sameKeyboard ⟨rfl, rfl, rfl, rfl⟩⟩

/-- Settles O35: the notice is emitted, the service is done, and the unit is Halted. -/
theorem haltEndsTheRun : Obligations.HaltEndsTheRun := fun s =>
  ⟨_, exec_trapHalt s, by simp, by simp, finishService_trapDone rfl (fun _ _ => rfl) rfl rfl rfl rfl rfl,
    finishService_sameKeyboard ⟨rfl, rfl, rfl, rfl⟩, step_of_not_running (by simp)⟩

/-! ## The wait of GETC and IN (R183, R186, R191) -/

theorem exec_trapGetc (s : State) : exec .trapGetc s = .next (waitChar .getc false s) := rfl

theorem exec_trapIn (s : State) : exec .trapIn s = .next (waitChar .inp true (s.emit Config.inPrompt)) := rfl

/-- What has been emitted makes no difference to a poll. -/
theorem poll_emit (bs : List Byte) (s : State) : poll (s.emit bs) = ((poll s).1, (poll s).2.emit bs) := by
  cases hinput : s.input with
  | nil => rw [poll_free hinput, poll_free (s := s.emit bs) hinput]; rfl
  | cons r rest => rw [poll_fixed hinput, poll_fixed (s := s.emit bs) hinput]; rfl

/-- The state a poll leaves, by the two fields it may change. -/
theorem poll_state (s : State) : (poll s).2 = { s with input := (poll s).2.input, draws := (poll s).2.draws } := by
  unfold poll; split <;> rfl

/-- `t` is `s` after a completed wait that read the character `c` and echoed `bs` (R183, R186, D14). -/
def CharRead (c : Byte) (bs : List Byte) (s t : State) : Prop :=
  (t.reg 0).toNat = c.toNat ∧ TrapDone [0] s t ∧ t.out = s.out ++ bs ∧ t.runState = s.runState ∧
    SameKeyboard (poll s).2 t ∧ t.kbdrLatch = s.kbdrLatch ∧ t.kbdrValid = s.kbdrValid

/-- A wait with a character at hand completes. -/
theorem waitChar_charRead {s : State} {c : Byte} (hstop : s.stopPending = false) (hpoll : (poll s).1 = some c)
    (svc : Service) (echo : Bool) : CharRead c (if echo then [c] else []) s (waitChar svc echo s) := by
  have hwait : waitChar svc echo s =
      finishService (((poll s).2.emit (if echo then [c] else [])).setReg 0 (zext8 c)) := by
    rw [waitChar_char hstop (Prod.ext hpoll rfl)]
    cases echo <;> simp
  have hreg (q : Reg) : (poll s).2.reg q = s.reg q := State.reg_congr (poll_regs s) q
  rw [hwait]
  refine ⟨?char, finishService_trapDone ?link (fun q hq => ?regs) ?_ ?_ ?_ ?_ ?_, ?_, ?_,
    finishService_sameKeyboard ⟨rfl, rfl, rfl, rfl⟩, ?_, ?_⟩
  case char => rw [finishService_reg_ne fun _ => by decide, State.reg_setReg_same, zext8_toNat]
  case link => exact (State.reg_setReg_ne _ (by decide) _).trans (hreg 7)
  case regs => exact (State.reg_setReg_ne _ (List.ne_of_not_mem_cons hq) _).trans (hreg q)
  all_goals simp

/-- Settles O30: a wait without echo completes; an offered character is what the poll answers. -/
theorem getcReadsCharacter : Obligations.GetcReadsCharacter := by
  have hread (s : State) (c : Byte) (hstop : s.stopPending = false) (hpoll : (poll s).1 = some c) :
      CharRead c [] s (waitChar .getc false s) := waitChar_charRead hstop hpoll .getc false
  refine ⟨fun s c hstop hpoll => ?_, fun s c rest hstop hinput => ?_⟩
  · obtain ⟨hchar, hdone, hout, hrest⟩ := hread s c hstop hpoll
    exact ⟨_, exec_trapGetc s, hchar, hdone, by simpa using hout, hrest⟩
  · have hpoll := poll_fixed hinput
    obtain ⟨hchar, -, -, -, ⟨-, -, hinput', hdraws⟩, -⟩ := hread s c hstop (by rw [hpoll])
    rw [hpoll] at hinput' hdraws
    exact ⟨_, exec_trapGetc s, hchar, hinput', hdraws⟩

/-- Settles O31: a wait with echo completes, after the prompt. -/
theorem inReadsCharacter : Obligations.InReadsCharacter := by
  intro s c hstop hpoll
  have hprompt := poll_emit Config.inPrompt s
  obtain ⟨hchar, hdone, hout, hrun, hkeyboard, hlatch⟩ :=
    waitChar_charRead (s := s.emit Config.inPrompt) hstop (by rw [hprompt]; exact hpoll) .inp true
  rw [hprompt] at hkeyboard
  exact ⟨_, exec_trapIn s, hchar, hdone, hout, hrun, hkeyboard, hlatch⟩

/-- A wait that times out changes nothing but the poll's two fields and the service in progress. -/
theorem waitChar_of_timeout {s : State} (hstop : s.stopPending = false) (hpoll : (poll s).1 = none) (svc : Service)
    (echo : Bool) : waitChar svc echo s =
      { s with input := (poll s).2.input, draws := (poll s).2.draws, service := some svc } := by
  rw [waitChar_timeout hstop (Prod.ext hpoll rfl)]
  exact congrArg (State.setService (some svc)) (poll_state s)

/-- Settles O36: both are a wait that times out, IN's after the prompt. -/
theorem timeoutLeavesServiceWaiting : Obligations.TimeoutLeavesServiceWaiting := by
  intro s hstop hpoll
  have hprompt := poll_emit Config.inPrompt s
  rw [exec_trapGetc, exec_trapIn, waitChar_of_timeout hstop hpoll,
    waitChar_of_timeout (s := s.emit Config.inPrompt) hstop (by rw [hprompt]; exact hpoll), hprompt]
  exact ⟨rfl, rfl⟩

/-- Settles O37: the step of a waiting service is the wait again, without a prompt. -/
theorem waitGoesOnInTheNextStep : Obligations.WaitGoesOnInTheNextStep := by
  intro s hload hrun
  refine ⟨fun hservice => ?_, fun c hservice hstop hpoll => ?_, fun hservice hstop hpoll => ?_⟩
  · exact step_of_service hrun hload hservice
  · obtain ⟨hchar, hdone, hout, hrest⟩ := waitChar_charRead hstop hpoll .inp true
    exact ⟨_, step_of_service hrun hload hservice, hchar, hout, hdone, hrest⟩
  · rw [step_of_service hrun hload hservice, resumeService, waitChar_of_timeout hstop hpoll, ← hservice]

/-! ## The string walk of PUTS and PUTSP (R185, R187) -/

theorem exec_trapPuts (s : State) : exec .trapPuts s = .next (walkString putsBytes .puts stringFuel (s.reg 0) s) := rfl

theorem exec_trapPutsp (s : State) :
    exec .trapPutsp s = .next (walkString putspBytes .putsp stringFuel (s.reg 0) s) := rfl

theorem State.emit_emit (bs cs : List Byte) (s : State) : (s.emit bs).emit cs = s.emit (bs ++ cs) := by
  simp [State.emit]

/-- A walk that pauses after `n` words and goes on for `m` more is the walk of `n + m` words (log 8). -/
theorem walkString_add {bytes : Word → List Byte} {pause : Word → Service} (hpause : pause.Injective) (n m : Nat)
    {a b : Word} {s : State} (h : (walkString bytes pause n a s).service = some (pause b)) :
    walkString bytes pause m b (walkString bytes pause n a s) = walkString bytes pause (n + m) a s := by
  induction n generalizing a s with
  | zero =>
    have hab : a = b := hpause (Option.some.inj h)
    rw [hab, walkString, walkString_setService, Nat.zero_add]
  | succ n ih =>
    rw [Nat.succ_add]
    by_cases hend : (memRead a s).1 = 0#16
    · rw [walkString_end hend, finishService_service] at h
      cases h
    · rw [walkString_word hend] at h ⊢
      rw [walkString_word hend]
      exact ih h

/-- Settles O38: the walk starts at R0, a paused one is resumed where it stands, and cuts compose. -/
theorem pausedStringGoesOn : Obligations.PausedStringGoesOn := by
  refine ⟨fun s => ⟨exec_trapPuts s, exec_trapPutsp s⟩, fun a s hrun hload => ?resumed,
    fun n m a b s => ⟨walkString_add (fun _ _ => Service.puts.inj) n m,
      walkString_add (fun _ _ => Service.putsp.inj) n m⟩⟩
  case resumed => exact ⟨step_of_service hrun hload, step_of_service hrun hload⟩

/-- The reads of a string change at most the keyboard. -/
theorem StringReads.sameButKeyboard {ws : List Word} {a : Word} {s u r : State} (h : StringReads a ws u r)
    (hu : SameButKeyboard s u) : SameButKeyboard s r := by
  induction ws generalizing a u with
  | nil =>
    have hend : (memRead a u).2 = r := congrArg Prod.snd h
    exact hend ▸ hu.memRead a
  | cons w rest ih =>
    obtain ⟨-, -, hrest⟩ := h
    exact ih hrest (hu.memRead a)

/-- The walk of a string that ends within the words of a step, after `bs` has been emitted: the bytes of all its words
follow, and the service is done in the state its reads leave. -/
theorem walkString_of_stringReads (bytes : Word → List Byte) (pause : Word → Service) {ws : List Word} {n : Nat}
    (hn : ws.length < n) {a : Word} {s r : State} (h : StringReads a ws s r) (bs : List Byte) :
    walkString bytes pause n a (s.emit bs) = finishService (r.emit (bs ++ ws.flatMap bytes)) := by
  induction ws generalizing n a s bs with
  | nil =>
    obtain ⟨n, rfl⟩ := Nat.exists_eq_add_of_lt hn
    have hread : memRead a s = (0#16, r) := h
    rw [walkString_end (by simp [memRead_emit, hread]), memRead_emit, hread]
    simp
  | cons w rest ih =>
    obtain ⟨hw, hread, hrest⟩ := h
    obtain ⟨n, rfl⟩ : ∃ k, n = k + 1 := Nat.exists_eq_succ_of_ne_zero (by omega)
    rw [walkString_word (by simpa [memRead_emit, hread] using hw), memRead_emit, hread, State.emit_emit,
      ih (by simpa using hn) hrest]
    simp

/-- The tail of a string in ordinary memory is one. -/
theorem StringAt.tail {w : Word} {ws : List Word} {a : Word} {s : State} (h : StringAt a (w :: ws) s) :
    StringAt (a + 1#16) ws s := by
  obtain ⟨hlength, hwords, hend⟩ := h
  have hshift (k : Nat) : a + 1#16 + BitVec.ofNat 16 k = a + BitVec.ofNat 16 (k + 1) := by
    rw [BitVec.add_assoc, ← BitVec.ofNat_add, Nat.add_comm 1 k]
  rw [List.length_cons] at hlength hend
  refine ⟨by omega, fun k hk => ?_, ?_⟩
  · rw [hshift]
    exact hwords (k + 1) (Nat.succ_lt_succ hk)
  · rw [hshift]
    exact hend

/-- A string in ordinary memory is read without any change. -/
theorem StringAt.stringReads {ws : List Word} {a : Word} {s : State} (h : StringAt a ws s) : StringReads a ws s s := by
  induction ws generalizing a with
  | nil =>
    obtain ⟨-, -, hplain, hcell⟩ := h
    rw [List.length_nil, BitVec.add_zero] at hplain hcell
    rw [StringReads, memRead_plain hplain, hcell]
  | cons w rest ih =>
    obtain ⟨hplain, hcell, hw⟩ := h.2.1 0 (Nat.succ_pos _)
    rw [BitVec.add_zero] at hplain hcell
    rw [StringReads, memRead_plain hplain]
    exact ⟨hw, hcell, ih h.tail⟩

/-- An execution that is the walk of a string: what it emits, and its frame. -/
theorem exists_next_of_stringReads {i : Instr} {bytes : Word → List Byte} {pause : Word → Service} {s r : State}
    {ws : List Word} (hexec : exec i s = .next (walkString bytes pause stringFuel (s.reg 0) s))
    (hlength : ws.length < 65536) (h : StringReads (s.reg 0) ws s r) :
    ∃ t, exec i s = .next t ∧ t.out = s.out ++ ws.flatMap bytes ∧ TrapDone [] s t ∧ t.runState = s.runState ∧
      SameKeyboard r t := by
  have hr := h.sameButKeyboard (.refl s)
  have hwalk := walkString_of_stringReads bytes pause hlength h []
  rw [State.emit_nil] at hwalk
  refine ⟨_, hexec.trans (congrArg Host.Outcome.next hwalk), by simp [hr.out], ?_, by simp [hr.runState],
    finishService_sameKeyboard ⟨rfl, rfl, rfl, rfl⟩⟩
  exact finishService_trapDone (hr.reg 7) (fun q _ => hr.reg q) hr.flags hr.pc hr.mem hr.stopPending hr.loaded

/-- The bytes PUTS emits for a string (R185). -/
theorem flatMap_putsBytes (ws : List Word) :
    ws.flatMap putsBytes = ws.map fun w => BitVec.ofNat 8 (w.toNat % 256) := by
  simp only [List.map_eq_flatMap, ← lowByte_eq]
  rfl

/-- The bytes PUTSP emits for a word, by its value (R187). -/
theorem putspBytes_eq (w : Word) : putspBytes w =
    BitVec.ofNat 8 (w.toNat % 256) :: (if w.toNat < 256 then [] else [BitVec.ofNat 8 (w.toNat / 256)]) := by
  have hzero : w.extractLsb' 8 8 = 0#8 ↔ w.toNat < 256 := by
    rw [field_eq_iff]
    simp
    omega
  rw [putspBytes, ← lowByte_eq, ← highByte_eq]
  simp only [hzero]
  split <;> rfl

/-- Settles O33: the walk of a string; one in ordinary memory is read without any change. -/
theorem putsEmitsString : Obligations.PutsEmitsString := by
  simp only [Obligations.PutsEmitsString, ← flatMap_putsBytes]
  exact ⟨fun s ws h => exists_next_of_stringReads (exec_trapPuts s) h.1 h.stringReads,
    fun s r ws hlength h => exists_next_of_stringReads (exec_trapPuts s) hlength h⟩

/-- Settles O34: as for PUTS, with the bytes of PUTSP. -/
theorem putspEmitsString : Obligations.PutspEmitsString := by
  simp only [Obligations.PutspEmitsString, ← putspBytes_eq]
  exact ⟨fun s ws h => exists_next_of_stringReads (exec_trapPutsp s) h.1 h.stringReads,
    fun s r ws hlength h => exists_next_of_stringReads (exec_trapPutsp s) hlength h⟩

/-! ## The stop request (R191, R224, R225, R226) -/

theorem waitChar_stopPending (svc : Service) (echo : Bool) (s : State) :
    (waitChar svc echo s).stopPending = s.stopPending := by
  obtain h | ⟨c, bs, h⟩ | h := waitChar_cases svc echo s <;> rw [h]
  · rfl
  · simp
  · simp

theorem resumeService_stopPending (svc : Service) (s : State) :
    (resumeService svc s).stopPending = s.stopPending := by
  cases svc with
  | getc | inp => exact waitChar_stopPending _ _ s
  | puts a | putsp a => exact walkString_stopPending _ _ _ a s

theorem ExecEffect.stopPending_eq {i : Instr} {s t : State} (h : ExecEffect i s t) :
    t.stopPending = s.stopPending := by
  cases h with
  | result dr v _ _ hr => exact hr.stopPending
  | store a v _ hr => simp [hr.stopPending]
  | jump | call | fault => rfl
  | wait svc echo prompt => exact waitChar_stopPending svc echo (s.emit prompt)
  | walk | put | halt => simp

theorem step_stopPending {s t : State} (h : step s = .next t) : t.stopPending = s.stopPending := by
  obtain ⟨-, -, hcase⟩ := step_cases h
  obtain ⟨svc, -, rfl⟩ | ⟨-, -, rfl⟩ | ⟨-, -, i, -, hexec⟩ | ⟨-, -, op, -, rfl⟩ := hcase
  · exact resumeService_stopPending svc s
  · rfl
  · exact (ExecEffect.of_exec hexec).stopPending_eq.trans (fetch_stopPending s)
  · exact fetch_stopPending s

/-- Settles O45: a fetch boundary and a wait honour the request, a string walk goes on. -/
theorem stopRequestIsHonoured : Obligations.StopRequestIsHonoured := by
  refine fun s => ⟨rfl, fun t => step_stopPending, fun hstop => ⟨?getc, ?inp⟩,
    fun hrun hload hstop => ⟨?checked, ?string⟩⟩
  case getc => rw [exec_trapGetc, waitChar_stopped hstop]; rfl
  case inp => rw [exec_trapIn, waitChar_stopped (s := s.emit Config.inPrompt) hstop]; rfl
  case checked =>
    rintro (hservice | hservice | hservice)
    · exact step_of_stop hrun hload hservice hstop
    all_goals
      rw [step_of_service hrun hload hservice, resumeService, waitChar_stopped hstop]
      rfl
  case string =>
    rintro a (hservice | hservice) <;>
      exact ⟨_, step_of_service hrun hload hservice, (walkString_runState _ _ _ a s).trans hrun⟩

end Sys2Proof.Machine
end

section
/-! # The exceptions family (60_exceptions.md): the step's dispatch, precise faults, the end of a run, reachable states

A word known to fault is executed as the fault entry in the state its fetch leaves, and no other word faults. The states
a run reaches are the closure of the launch under the step, which keeps the invariant, and the host's two moves. -/

namespace Sys2Proof.Machine

/-! ## Fetch and dispatch (R50, R210, R211) -/

/-- A fetch is one `MemRead` at pc, then pc + 1. -/
theorem fetch_eq_memRead (s : State) :
    fetch s = ((memRead s.pc s).1, (memRead s.pc s).2.setPc (s.pc + 1#16)) := by
  simp [fetch]

/-- Settles O39: the case of a step that decodes an instruction, and the read of each kind of pc. -/
theorem stepRunsDecodedInstruction : Obligations.StepRunsDecodedInstruction := by
  refine ⟨fun s i hrun hload hservice hstop hdecode => step_of_instr hrun hload hservice hstop hdecode,
    fun s => ⟨fetch_plain, fun hpc => ?kbsr, fun hpc => ?kbdr⟩⟩
  case kbsr =>
    rw [fetch_eq_memRead, hpc]
    rcases hpoll : poll s with ⟨_ | c, u⟩
    · rw [memRead_kbsr_idle (congrArg Prod.fst hpoll), hpoll]
      rfl
    · rw [memRead_kbsr_pending (congrArg Prod.fst hpoll), hpoll]
      rfl
  case kbdr =>
    rw [fetch_eq_memRead, hpc]
    split
    · next hvalid => rw [memRead_kbdr_latched hvalid]; rfl
    · next hvalid => rw [memRead_kbdr_stale (Bool.eq_false_of_not_eq_true hvalid)]; rfl

/-- Settles O44: a unit that is not Running answers the model's fault `runEnded`. -/
theorem noStepAfterTheEnd : Obligations.NoStepAfterTheEnd := by
  intro s hend
  rw [step_of_not_running hend]
  exact ⟨rfl, fun _ => nofun⟩

/-! ## Precise faults (R212, R213, R214) -/

/-- The decoded instruction of a word that faults is RTI, the reserved opcode or a TRAP with a code of its own, and its
execution is the fault entry with that word. -/
theorem exec_of_faultCause {i : Instr} {ir : Word} {c : FaultCause} (hdecode : decode ir = .instr i)
    (hcause : faultCauseOf ir = some c) (s : State) : exec i s = .next (raiseFault c ir s) := by
  obtain ⟨hwf, rfl⟩ := encodeOfDecode ir i hdecode
  rw [faultCauseOf, hdecode] at hcause
  cases i with
  | rti | reserved => cases hcause; rfl
  | trap v => cases hcause; exact exec_trap_of_no_service (by simpa [Instr.wellFormed] using hwf) s
  | _ => cases hcause

/-- A decoded instruction whose word does not fault is none of the three that can. -/
theorem exec_notFaulted_of_faultCause {i : Instr} {ir : Word} (hdecode : decode ir = .instr i)
    (hcause : faultCauseOf ir = none) {s : State} (hrun : s.runState = .running) :
    ∃ t, exec i s = .next t ∧ t.notFaulted := by
  rw [faultCauseOf, hdecode] at hcause
  refine exec_notFaulted hrun ?_ ?_ ?_ <;> rintro _ rfl <;> cases hcause

/-- A fetching step whose word faults ends in the state of the fetch, Faulted with the true record (log 9). -/
theorem step_of_faultCause {s t : State} {c : FaultCause} (hservice : s.service = none)
    (hstop : s.stopPending = false) (hstep : step s = .next t) (hcause : faultCauseOf (fetch s).1 = some c) :
    t = { (fetch s).2 with runState := .faulted ⟨c, s.pc, (fetch s).1⟩ } := by
  obtain ⟨hrun, hload, -⟩ := step_cases hstep
  rw [← raiseFault_fetch]
  cases hdecode : decode (fetch s).1 with
  | instr i =>
    rw [step_of_instr hrun hload hservice hstop hdecode, exec_of_faultCause hdecode hcause] at hstep
    exact (Host.Outcome.next.inj hstep).symm
  | illegal op =>
    have hillegal : c = .illegalOperand := by simpa [faultCauseOf, hdecode] using hcause.symm
    rw [step_of_illegal hrun hload hservice hstop hdecode] at hstep
    rw [hillegal]
    exact (Host.Outcome.next.inj hstep).symm

/-- A fetching step whose word does not fault does not end in Faulted. -/
theorem step_notFaulted {s t : State} (hservice : s.service = none) (hstop : s.stopPending = false)
    (hstep : step s = .next t) (hcause : faultCauseOf (fetch s).1 = none) : t.notFaulted := by
  obtain ⟨hrun, hload, -⟩ := step_cases hstep
  cases hdecode : decode (fetch s).1 with
  | instr i =>
    obtain ⟨u, hexec, hu⟩ := exec_notFaulted_of_faultCause hdecode hcause ((fetch_runState s).trans hrun)
    rw [step_of_instr hrun hload hservice hstop hdecode, hexec] at hstep
    exact Host.Outcome.next.inj hstep ▸ hu
  | illegal op => simp [faultCauseOf, hdecode] at hcause

/-- Settles O42: a word that faults gives the fault entry after its fetch, which changes the keyboard and pc only. -/
theorem faultsArePrecise : Obligations.FaultsArePrecise := by
  refine fun s t hservice hstop hstep => ⟨fun c hcause => ?_, step_notFaulted hservice hstop hstep⟩
  rw [step_of_faultCause hservice hstop hstep hcause]
  exact ⟨rfl, fetch_pc s, fun r _ => State.reg_congr (fetch_regs s) r, fetch_flags s,
    fun a => State.cell_congr (fetch_mem s) a, fetch_out s, ⟨rfl, rfl, rfl, rfl⟩, fetch_stopPending s,
    fetch_loaded s, fetch_service s⟩

/-! ## The exit code (R229) -/

theorem exitFault_ne_zero : Config.exitFault ≠ 0 := Nat.succ_ne_zero _

theorem exitInterrupt_ne_zero : Config.exitInterrupt ≠ 0 := by
  unfold Config.exitInterrupt
  split <;> omega

theorem exitInterrupt_ne_exitFault : Config.exitInterrupt ≠ Config.exitFault := by
  unfold Config.exitInterrupt Config.exitFault
  split <;> omega

section
variable {s : State}

theorem exitCode?_of_running (h : s.runState = .running) : s.exitCode? = none := by
  simp [State.exitCode?, h]

theorem exitCode?_of_haltTrap (h : s.runState = .halted .haltTrap) : s.exitCode? = some 0 := by
  simp [State.exitCode?, h]

theorem exitCode?_of_interrupted (h : s.runState = .halted .interrupted) :
    s.exitCode? = some Config.exitInterrupt := by
  simp [State.exitCode?, h]

theorem exitCode?_of_faulted {r : FaultRecord} (h : s.runState = .faulted r) :
    s.exitCode? = some Config.exitFault := by
  simp [State.exitCode?, h]

end

/-- Settles O59: the three codes are pairwise distinct, so each names its run state. -/
theorem exitCodesAreDistinct : Obligations.ExitCodesAreDistinct := by
  intro s
  have hfault := exitFault_ne_zero
  have hinterrupt := exitInterrupt_ne_zero
  have hdistinct := exitInterrupt_ne_exitFault
  cases hrun : s.runState with
  | running => simp [exitCode?_of_running hrun]
  | halted why =>
    cases why with
    | haltTrap => simp [exitCode?_of_haltTrap hrun, hfault.symm, hinterrupt.symm]
    | interrupted => simp [exitCode?_of_interrupted hrun, hinterrupt, hdistinct]
  | faulted r => simp [exitCode?_of_faulted hrun, hfault, hdistinct.symm]

/-! ## Reachable states (R232, R250, R253) -/

/-- A successful launch gives the reset state with a fitting image in it. -/
theorem launched_of_launch {bytes : List Byte} {s : State} (h : launch bytes = .ok s) :
    ∃ (origin : Word) (words : List Word), origin.toNat + words.length ≤ 65536 ∧ s = launched origin words := by
  unfold launch loadImage at h
  split at h
  · cases h
  · cases h
  · next origin words hbytes =>
    unfold loadAt at h
    split_ifs at h with hempty hfit
    cases h
    exact ⟨origin, words, hfit, rfl⟩

theorem launched_inv {origin : Word} {words : List Word} (hfit : origin.toNat + words.length ≤ 65536) :
    (launched origin words).Inv :=
  .of_running rfl (Memory.setAll_wf State.reset_mem_wf hfit) rfl

/-- A stop request changes no field that the invariant speaks of. -/
theorem requestStop_inv {s : State} (h : s.Inv) : s.requestStop.Inv :=
  ⟨h.mem_wf, h.flags_exclusive, h.service_running, h.record_true⟩

/-- Offered answers change no field that the invariant speaks of. -/
theorem offerInput_inv {s : State} (h : s.Inv) (answers : List (Option Byte)) : (s.offerInput answers).Inv :=
  ⟨h.mem_wf, h.flags_exclusive, h.service_running, h.record_true⟩

@[simp] theorem waitChar_loaded (svc : Service) (echo : Bool) (s : State) :
    (waitChar svc echo s).loaded = s.loaded := by
  obtain h | ⟨c, bs, h⟩ | h := waitChar_cases svc echo s <;> rw [h]
  · rfl
  · simp
  · simp

theorem resumeService_loaded (svc : Service) (s : State) : (resumeService svc s).loaded = s.loaded := by
  cases svc with
  | getc | inp => exact waitChar_loaded _ _ s
  | puts a | putsp a => exact walkString_loaded _ _ _ a s

theorem ExecEffect.loaded_eq {i : Instr} {s t : State} (h : ExecEffect i s t) : t.loaded = s.loaded := by
  cases h with
  | result dr v _ _ hr => exact hr.loaded
  | store a v _ hr => simp [hr.loaded]
  | jump | call | fault => rfl
  | wait | walk | put | halt => simp

/-- No step unloads the image (log 6). -/
theorem step_loaded {s t : State} (h : step s = .next t) : t.loaded = s.loaded := by
  obtain ⟨-, -, hcase⟩ := step_cases h
  obtain ⟨svc, -, rfl⟩ | ⟨-, -, rfl⟩ | ⟨-, -, i, -, hexec⟩ | ⟨-, -, op, -, rfl⟩ := hcase
  · exact resumeService_loaded svc s
  · rfl
  · exact (ExecEffect.of_exec hexec).loaded_eq.trans (fetch_loaded s)
  · exact fetch_loaded s

/-- Settles O54: a launch gives a sound state, and a step and the host's two moves keep it sound. -/
theorem reachableStatesAreSound : Obligations.ReachableStatesAreSound := by
  intro s hs
  induction hs with
  | launch h =>
    obtain ⟨origin, words, hfit, rfl⟩ := launched_of_launch h
    exact ⟨launched_inv hfit, rfl⟩
  | step _ hstep ih =>
    obtain ⟨hinv, hload⟩ := ih
    exact ⟨stepKeepsInvariant _ _ hinv hstep, (step_loaded hstep).trans hload⟩
  | requestStop _ ih =>
    obtain ⟨hinv, hload⟩ := ih
    exact ⟨requestStop_inv hinv, hload⟩
  | offerInput answers _ ih =>
    obtain ⟨hinv, hload⟩ := ih
    exact ⟨offerInput_inv hinv answers, hload⟩

end Sys2Proof.Machine
end

section
/-! # The reset and hazards family (70_reset_and_hazards.md): no step before the load, and the refused images

A launch has four outcomes, one for each kind of malformed image and the loaded one. Each is said once as an equation under its
condition on the bytes; the conditions are exhaustive, so the statement is read off the four equations. -/

namespace Sys2Proof.Machine

/-! ## No step before the load (R250) -/

/-- Settles O56: the reset state is one of the Running states without an image. -/
theorem noStepBeforeTheLoad : Obligations.NoStepBeforeTheLoad :=
  ⟨step_of_not_loaded rfl rfl, fun _ => step_of_not_loaded⟩

/-! ## The outcomes of a launch (R253, R254; decision D21) -/

/-- An odd number of bytes leaves a byte over, however many pairs stand before it. -/
theorem imageWords_odd (bytes : List Byte) (hodd : bytes.length % 2 = 1) : imageWords bytes = none := by
  match bytes with
  | [] => simp at hodd
  | [_] => rfl
  | hi :: lo :: rest =>
    have hrest : rest.length % 2 = 1 := by simp only [List.length_cons] at hodd; omega
    rw [imageWords, imageWords_odd rest hrest, Option.map_none]

/-- An image of at least two whole words reads as an origin and a non-empty run of words. -/
theorem imageWords_origin {bytes : List Byte} (heven : bytes.length % 2 = 0) (hlong : 4 ≤ bytes.length) :
    ∃ (origin : Word) (words : List Word), imageWords bytes = some (origin :: words) ∧ words ≠ [] ∧
      origin.toNat = imageWord bytes 0 ∧ words.length = bytes.length / 2 - 1 := by
  obtain ⟨ws, hws, hlen, hword⟩ := imageWords_even bytes heven
  match ws with
  | [] => simp only [List.length_nil] at hlen; omega
  | origin :: words =>
    rw [List.length_cons] at hlen
    refine ⟨origin, words, hws, List.ne_nil_of_length_pos (by omega), hword 0, by omega⟩

theorem launch_of_odd {bytes : List Byte} (hodd : bytes.length % 2 = 1) : launch bytes = .error .oddLength := by
  simp only [launch, loadImage, imageWords_odd bytes hodd]

/-- No bytes are no origin, two bytes are an origin with no word after it. -/
theorem launch_of_short {bytes : List Byte} (hshort : bytes.length = 0 ∨ bytes.length = 2) :
    launch bytes = .error .tooShort := by
  obtain hzero | htwo := hshort
  · rw [List.length_eq_zero_iff.1 hzero]
    rfl
  · obtain ⟨hi, lo, rfl⟩ := List.length_eq_two.1 htwo
    rfl

theorem launch_of_pastTop {bytes : List Byte} (heven : bytes.length % 2 = 0) (hlong : 4 ≤ bytes.length)
    (hpast : 65536 < imageWord bytes 0 + (bytes.length / 2 - 1)) : launch bytes = .error .pastTop := by
  obtain ⟨origin, words, hbytes, hne, horigin, hlen⟩ := imageWords_origin heven hlong
  have hnofit : ¬ origin.toNat + words.length ≤ 65536 := by omega
  simp only [launch, loadImage, hbytes, loadAt, if_neg hne, if_neg hnofit]

theorem launch_of_fits {bytes : List Byte} (heven : bytes.length % 2 = 0) (hlong : 4 ≤ bytes.length)
    (hfit : imageWord bytes 0 + (bytes.length / 2 - 1) ≤ 65536) : ∃ s, launch bytes = .ok s := by
  obtain ⟨s, hlaunch, -⟩ := launchLoadsTheImage bytes heven hlong hfit
  exact ⟨s, hlaunch⟩

/-- Settles O58: by the four outcomes of a launch; under each one's condition the conditions of the others fail. -/
theorem malformedImageIsRefused : Obligations.MalformedImageIsRefused := by
  intro bytes
  have hcases : bytes.length % 2 = 1 ∨ (bytes.length = 0 ∨ bytes.length = 2) ∨
      (bytes.length % 2 = 0 ∧ 4 ≤ bytes.length) := by omega
  obtain hodd | hshort | ⟨heven, hlong⟩ := hcases
  · simp only [launch_of_odd hodd, Except.error.injEq, reduceCtorEq, true_iff, false_iff]
    omega
  · simp only [launch_of_short hshort, Except.error.injEq, reduceCtorEq, true_iff, false_iff]
    omega
  · obtain hpast | hfit := Nat.lt_or_ge 65536 (imageWord bytes 0 + (bytes.length / 2 - 1))
    · simp only [launch_of_pastTop heven hlong hpast, Except.error.injEq, reduceCtorEq, true_iff, false_iff]
      omega
    · obtain ⟨s, hlaunch⟩ := launch_of_fits heven hlong hfit
      simp only [hlaunch, reduceCtorEq, false_iff]
      omega

end Sys2Proof.Machine
end
